-- ==== Sys2Proof/Word.lean ====
section
/-! DEFINITION. The words of STEGO-CORE: bytes, the 16-bit geometry fields, 32-bit registers and pixels, and the bit patterns
of IEEE 754 binary64 numbers (00_scope.md R11, R14). -/

namespace Sys2Proof

/-- One byte of a memory (20_memory.md R80). -/
abbrev Byte := BitVec 8

/-- The stored part of WIDTH and HEIGHT (10_state.md R40, R41). -/
abbrev Half := BitVec 16

/-- A register, a command word or a pixel word (10_state.md section 2, 20_memory.md R85). -/
abbrev Word := BitVec 32

/-- The encoding of an IEEE 754 binary64 value (00_scope.md R14). -/
abbrev F64 := BitVec 64

end Sys2Proof
end

