-- ==== Sys2Proof/Config.lean ====
section
/-! DEFINITION. What an implementation fixes: the closed sets the spec names, the parameters of 00_scope.md R8, the fixed
constants of R9, and the free values (the draws of 93_implementation_defined.md U1, U4, U5). -/

namespace Sys2Proof

/-- The four memories of 10_state.md R49. -/
inductive Space where
  | payload
  | result
  | imgIn
  | imgOut
deriving DecidableEq, Repr

/-- The three engines of 00_scope.md R3, selected by the ENG field (30_encoding.md R111). -/
inductive Engine where
  | lsb
  | dct
  | dwt
deriving DecidableEq, Repr

/-- The three operations of the OP field (30_encoding.md R112). -/
inductive Op where
  | embed
  | extract
  | capacity
deriving DecidableEq, Repr

/-- The implementation parameters of 00_scope.md R8. IMG_WORDS is not a field: R87 makes it MAX_W·MAX_H. -/
structure Params where
  /-- MAX_W, the largest accepted WIDTH. -/
  maxW : Nat
  /-- MAX_H, the largest accepted HEIGHT. -/
  maxH : Nat
  /-- PAYLOAD_BYTES, the size of the payload memory. -/
  payloadBytes : Nat
  /-- RESULT_BYTES, the size of the result memory. -/
  resultBytes : Nat
deriving DecidableEq, Repr

/-- The defaults of the table in 00_scope.md R8. -/
def Params.default : Params :=
  { maxW := 1024, maxH := 1024, payloadBytes := 131072, resultBytes := 131072 }

/-- IMG_WORDS, the pixel words in each image memory (00_scope.md R8, 20_memory.md R87). -/
def Params.imgWords (p : Params) : Nat := p.maxW * p.maxH

/-- The size in bytes of each memory (10_state.md R49). -/
def Params.size (p : Params) : Space → Nat
  | .payload => p.payloadBytes
  | .result => p.resultBytes
  | .imgIn => 4 * p.imgWords
  | .imgOut => 4 * p.imgWords

/-- BLOCK, the block edge in pixels (00_scope.md R9). -/
def blockEdge : Nat := 8

/-- K_DCT = 25.0, the enforced magnitude of the DCT engine (00_scope.md R9), as binary64. -/
def kDct : F64 := 0x4039000000000000#64

/-- K_DWT = 20.0, the enforced magnitude of the DWT engine (00_scope.md R9), as binary64. -/
def kDwt : F64 := 0x4034000000000000#64

/-- LEVEL_SHIFT = 128.0 (00_scope.md R9), as binary64. -/
def levelShift : F64 := 0x4060000000000000#64

/-- SIG_U = 4, the row of the signalling coefficient (00_scope.md R9). -/
def sigU : Nat := 4

/-- SIG_V = 3, the column of the signalling coefficient (00_scope.md R9). -/
def sigV : Nat := 3

/-- TERM, the terminator byte (00_scope.md R9). -/
def terminator : Byte := 0x00#8

/-- FREE VALUE (93_implementation_defined.md U1; 10_state.md R50): the byte at an offset of a memory after the given
power-on, until something writes it. No proof can see which byte it is. Assumption log 4. -/
opaque Config.powerOnByte : Nat → Space → Nat → Byte

/-- FREE VALUE (93_implementation_defined.md U5; 70_reset_and_hazards.md R343): the byte an aborted command leaves at an
offset it could have written; the first argument is the number of the draw. Assumption log 5. -/
opaque Config.abortByte : Nat → Space → Nat → Byte

/-- FREE VALUE (93_implementation_defined.md U4; 20_memory.md R98): the word a host read of IMG_OUT or RESULT returns while
a command is in flight; the argument is the number of the draw. Assumption log 6. -/
opaque Config.busyReadWord : Nat → Word

end Sys2Proof
end

