-- ==== Sys2Proof/Syntax.lean ====
section
/-! DEFINITION. The nine commands of STEGO-CORE (30_encoding.md R115), one constructor per row of spec/opcode_table.json. -/

namespace Sys2Proof

/-- A legal command. No command has an operand field: every operand is read from the registers and memories at the
completion step (30_encoding.md R113). -/
inductive Instr where
  /-- EMBED.LSB (41_lsb.md R172). -/
  | embedLsb
  /-- EXTRACT.LSB (41_lsb.md R173). -/
  | extractLsb
  /-- CAPACITY.LSB (41_lsb.md R174). -/
  | capacityLsb
  /-- EMBED.DCT (42_dct.md R200). -/
  | embedDct
  /-- EXTRACT.DCT (42_dct.md R201). -/
  | extractDct
  /-- CAPACITY.DCT (42_dct.md R202). -/
  | capacityDct
  /-- EMBED.DWT (43_dwt.md R240). -/
  | embedDwt
  /-- EXTRACT.DWT (43_dwt.md R241). -/
  | extractDwt
  /-- CAPACITY.DWT (43_dwt.md R242). -/
  | capacityDwt
deriving DecidableEq, Repr

/-- The operation a command's OP field selects (30_encoding.md R112, R115). -/
def Instr.op : Instr → Op
  | .embedLsb | .embedDct | .embedDwt => .embed
  | .extractLsb | .extractDct | .extractDwt => .extract
  | .capacityLsb | .capacityDct | .capacityDwt => .capacity

/-- The engine a command's ENG field selects (30_encoding.md R111, R115). -/
def Instr.engine : Instr → Engine
  | .embedLsb | .extractLsb | .capacityLsb => .lsb
  | .embedDct | .extractDct | .capacityDct => .dct
  | .embedDwt | .extractDwt | .capacityDwt => .dwt

end Sys2Proof
end

