-- ==== Sys2Proof/WellFormed.lean ====
section
/-! DEFINITION. What is well formed: a command word (30_encoding.md R115) and the parameters (00_scope.md R8). An `Instr` has
no field, so every term of it is well formed; the checks stand on the word it is decoded from. -/

namespace Sys2Proof

/-- OP, bits 3:0 of a command word (30_encoding.md R110). -/
def opField (v : Word) : BitVec 4 := v.extractLsb' 0 4

/-- ENG, bits 5:4 of a command word (30_encoding.md R110). -/
def engField (v : Word) : BitVec 2 := v.extractLsb' 4 2

/-- RSV, bits 31:6 of a command word, which must be 0 (30_encoding.md R110). -/
def rsvField (v : Word) : BitVec 26 := v.extractLsb' 6 26

/-- `v[3:0] ∈ {0x1, 0x2, 0x3}` (30_encoding.md R115). -/
def legalOp (v : Word) : Bool := opField v == 1#4 || opField v == 2#4 || opField v == 3#4

/-- `v[5:4] ∈ {0, 1, 2}` (30_encoding.md R115). -/
def legalEng (v : Word) : Bool := engField v == 0#2 || engField v == 1#2 || engField v == 2#2

/-- `v[31:6] = 0` (30_encoding.md R115). -/
def legalRsv (v : Word) : Bool := rsvField v == 0#26

/-- A legal command word (30_encoding.md R115): all three fields are. -/
def Legal (v : Word) : Bool := legalOp v && legalEng v && legalRsv v

/-- The constraint on MAX_W (00_scope.md R8). -/
def Params.wfMaxW (p : Params) : Bool := decide (1 ≤ p.maxW ∧ p.maxW ≤ 65535)

/-- The constraint on MAX_H (00_scope.md R8). -/
def Params.wfMaxH (p : Params) : Bool := decide (1 ≤ p.maxH ∧ p.maxH ≤ 65535)

/-- The constraint on IMG_WORDS (00_scope.md R8). -/
def Params.wfImgWords (p : Params) : Bool := decide (p.imgWords ≤ 2 ^ 22)

/-- The constraint on PAYLOAD_BYTES (00_scope.md R8). -/
def Params.wfPayload (p : Params) : Bool :=
  decide (4 ≤ p.payloadBytes ∧ p.payloadBytes ≤ 2 ^ 20 ∧ p.payloadBytes % 4 = 0)

/-- The constraint on RESULT_BYTES (00_scope.md R8). -/
def Params.wfResult (p : Params) : Bool :=
  decide (p.imgWords / 8 ≤ p.resultBytes ∧ p.resultBytes ≤ 2 ^ 20 ∧ p.resultBytes % 4 = 0)

/-- All the constraints of 00_scope.md R8. -/
def Params.wf (p : Params) : Bool :=
  p.wfMaxW && p.wfMaxH && p.wfImgWords && p.wfPayload && p.wfResult

end Sys2Proof
end

