-- ==== Sys2Proof/Decode.lean ====
section
/-! DEFINITION. The decoder of command words, total on every 32-bit value (30_encoding.md R117), which names why it rejects a
reserved word (R116), and the encoder of the nine rows of R115. -/

namespace Sys2Proof

/-- Why a command word is reserved (30_encoding.md R116 (a), (b), (c)). All three complete with IllegalCommand (R301). -/
inductive Illegal where
  /-- (c) a nonzero bit in [31:6]. -/
  | reservedBits
  /-- (b) ENG = 3. -/
  | reservedEngine
  /-- (a) OP is 0x0 or 0x4 to 0xF. -/
  | reservedOp
deriving DecidableEq, Repr

/-- The engine of an ENG field; ENG = 3 is reserved (30_encoding.md R111). -/
def decodeEngine (e : BitVec 2) : Option Engine :=
  if e = 0#2 then some .lsb
  else if e = 1#2 then some .dct
  else if e = 2#2 then some .dwt
  else none

/-- The operation of an OP field; 0x0 and 0x4 to 0xF are reserved (30_encoding.md R112). -/
def decodeOp (o : BitVec 4) : Option Op :=
  if o = 1#4 then some .embed
  else if o = 2#4 then some .extract
  else if o = 3#4 then some .capacity
  else none

/-- The command of an operation and an engine (30_encoding.md R115, 44_validation.md R277). -/
def instrOf : Op → Engine → Instr
  | .embed, .lsb => .embedLsb
  | .embed, .dct => .embedDct
  | .embed, .dwt => .embedDwt
  | .extract, .lsb => .extractLsb
  | .extract, .dct => .extractDct
  | .extract, .dwt => .extractDwt
  | .capacity, .lsb => .capacityLsb
  | .capacity, .dct => .capacityDct
  | .capacity, .dwt => .capacityDwt

/-- The decoder (30_encoding.md R117). A word reserved for more than one reason is named by the first of RSV, ENG, OP:
the name is the model's (assumption log 13), the rejection is R116's. -/
def decode (v : Word) : Except Illegal Instr :=
  if rsvField v ≠ 0#26 then .error .reservedBits
  else match decodeEngine (engField v) with
    | none => .error .reservedEngine
    | some e =>
      match decodeOp (opField v) with
      | none => .error .reservedOp
      | some o => .ok (instrOf o e)

/-- The word of each command, from the table of 30_encoding.md R115. -/
def encode : Instr → Word
  | .embedLsb => 0x00000001#32
  | .extractLsb => 0x00000002#32
  | .capacityLsb => 0x00000003#32
  | .embedDct => 0x00000011#32
  | .extractDct => 0x00000012#32
  | .capacityDct => 0x00000013#32
  | .embedDwt => 0x00000021#32
  | .extractDwt => 0x00000022#32
  | .capacityDwt => 0x00000023#32

/-- The command word made of the low `nbits` bits of `w`, every bit above them 0. Every command is one 32-bit word
(30_encoding.md R110). -/
def tableWord (nbits w : Nat) : Word := BitVec.ofNat 32 (w % 2 ^ nbits)

/-- What the decoder reads from an instruction whose bits are `w`, numbered as spec/opcode_table.json numbers them. -/
def decodeTableWord (nbits w : Nat) : Option Instr :=
  match decode (tableWord nbits w) with
  | .ok i => some i
  | .error _ => none

end Sys2Proof
end

