-- ==== Sys2Proof/Machine/Binary64.lean ====
section
/-! DEFINITION. IEEE 754 binary64 arithmetic on encodings, each operation rounded to nearest, ties to even (00_scope.md R14).
A finite value is held as a natural significand `m` and a natural scale `k`, and stands for `m · 2^(k - 1074)`. -/

namespace Sys2Proof.Machine

open Sys2Proof

/-- The exponent field, bits 62:52. -/
def fExp (x : F64) : Nat := (x.toNat >>> 52) % 2048

/-- The fraction field, bits 51:0. -/
def fFrac (x : F64) : Nat := x.toNat % 2 ^ 52

/-- The sign bit, bit 63. -/
def fNegative (x : F64) : Bool := x.msb

/-- A NaN: exponent field all ones, fraction not 0. -/
def fIsNaN (x : F64) : Bool := fExp x == 2047 && fFrac x != 0

/-- An infinity: exponent field all ones, fraction 0. -/
def fIsInf (x : F64) : Bool := fExp x == 2047 && fFrac x == 0

/-- A finite value. By 40_codec.md R154 every value of the block's computations is. -/
def fFinite (x : F64) : Bool := fExp x != 2047

/-- The significand of a finite value, in units of `2^(fScale x - 1074)`. -/
def fMant (x : F64) : Nat := if fExp x = 0 then fFrac x else 2 ^ 52 + fFrac x

/-- The scale of a finite value: 0 for the subnormal and the least normal exponents. -/
def fScale (x : F64) : Nat := fExp x - 1

/-- A finite value as an exact integer, in units of `2^-1074`. -/
def fUnits (x : F64) : Int :=
  if fNegative x then -((fMant x * 2 ^ fScale x : Nat) : Int) else ((fMant x * 2 ^ fScale x : Nat) : Int)

/-- The encoding with the given sign and the given bits 62:0. -/
def fPack (neg : Bool) (magnitude : Nat) : F64 :=
  BitVec.ofNat 64 (magnitude + if neg then 2 ^ 63 else 0)

/-- The bits 62:0 of an infinity. -/
def fInfBits : Nat := 2047 * 2 ^ 52

/-- The one NaN the operations give. No computation of the block reaches it (40_codec.md R154; assumption log 9). -/
def fNaN : F64 := 0x7FF8000000000000#64

/-- `m / 2^d` rounded to the nearest integer, ties to even. -/
def roundHalfEven (m d : Nat) : Nat :=
  let n := m >>> d
  let twice := 2 * (m % 2 ^ d)
  if twice > 2 ^ d ∨ (twice = 2 ^ d ∧ n % 2 = 1) then n + 1 else n

/-- The binary64 value nearest to `± m · 2^(k - bias - 1074)`, ties to even; a magnitude beyond the largest finite value
gives the infinity. The scale `q` keeps 53 significant bits, or the subnormal scale 0. -/
def fRound (neg : Bool) (m k bias : Nat) : F64 :=
  if m = 0 then fPack neg 0
  else
    let q := (k + Nat.log2 m + 1) - (53 + bias)
    let significand := if q + bias ≤ k then m <<< (k - (q + bias)) else roundHalfEven m (q + bias - k)
    fPack neg (min (q * 2 ^ 52 + significand) fInfBits)

/-- `-x`: the sign bit flipped. -/
def fNeg (x : F64) : F64 := x ^^^ 0x8000000000000000#64

/-- `|x|`: the sign bit cleared (00_scope.md R14). -/
def fAbs (x : F64) : F64 := x &&& 0x7FFFFFFFFFFFFFFF#64

/-- `a + b` (00_scope.md R14). An exact sum of 0 from operands of different signs is +0. -/
def fAdd (a b : F64) : F64 :=
  if fIsNaN a || fIsNaN b then fNaN
  else if fIsInf a then (if fIsInf b && (fNegative a != fNegative b) then fNaN else a)
  else if fIsInf b then b
  else
    let k := min (fScale a) (fScale b)
    let ma := fMant a <<< (fScale a - k)
    let mb := fMant b <<< (fScale b - k)
    if fNegative a = fNegative b then fRound (fNegative a) (ma + mb) k 0
    else if mb < ma then fRound (fNegative a) (ma - mb) k 0
    else if ma < mb then fRound (fNegative b) (mb - ma) k 0
    else fPack false 0

/-- `a - b` (00_scope.md R14). -/
def fSub (a b : F64) : F64 := fAdd a (fNeg b)

/-- `a * b` (00_scope.md R14). -/
def fMul (a b : F64) : F64 :=
  let neg := fNegative a != fNegative b
  if fIsNaN a || fIsNaN b then fNaN
  else if fIsInf a || fIsInf b then
    (if (fFinite a && fMant a == 0) || (fFinite b && fMant b == 0) then fNaN else fPack neg fInfBits)
  else fRound neg (fMant a * fMant b) (fScale a + fScale b) 1074

/-- The bits a quotient is carried to before it is rounded: enough that the remainder only decides ties. -/
def divGuard : Nat := 128

/-- `a / b` (00_scope.md R14). The quotient is carried `divGuard` bits further, and a last bit says whether a remainder is
left, so that one rounding gives the nearest value. -/
def fDiv (a b : F64) : F64 :=
  let neg := fNegative a != fNegative b
  if fIsNaN a || fIsNaN b then fNaN
  else if fIsInf a then (if fIsInf b then fNaN else fPack neg fInfBits)
  else if fIsInf b then fPack neg 0
  else if fMant b = 0 then (if fMant a = 0 then fNaN else fPack neg fInfBits)
  else
    let scaled := fMant a <<< divGuard
    let quotient := 2 * (scaled / fMant b) + (if scaled % fMant b = 0 then 0 else 1)
    fRound neg quotient (fScale a + 1074) (fScale b + divGuard + 1)

/-- The position of a value that is no NaN in the numeric order: its magnitude bits, negated for a negative sign, so that
+0.0 and -0.0 share one position. -/
def fRank (x : F64) : Int :=
  if fNegative x then -((x.toNat % 2 ^ 63 : Nat) : Int) else ((x.toNat % 2 ^ 63 : Nat) : Int)

/-- The ordered comparison `a < b`, false when either is a NaN (00_scope.md R14). -/
def fLt (a b : F64) : Bool := !fIsNaN a && !fIsNaN b && decide (fRank a < fRank b)

/-- The ordered comparison `a ≤ b`, false when either is a NaN (00_scope.md R14). -/
def fLe (a b : F64) : Bool := !fIsNaN a && !fIsNaN b && decide (fRank a ≤ fRank b)

/-- +0.0. -/
def fZero : F64 := 0#64

/-- 1.0. -/
def fOne : F64 := 0x3FF0000000000000#64

/-- 0.25. -/
def fQuarter : F64 := 0x3FD0000000000000#64

/-- 255.0. -/
def f255 : F64 := 0x406FE00000000000#64

/-- A natural number as a binary64 value; exact for the integers the block uses, 0 to 255 (00_scope.md R14). -/
def fOfNat (n : Nat) : F64 := fRound false n 1074 0

end Sys2Proof.Machine
end

