-- ==== Sys2Proof/Machine/Codec.lean ====
section
/-! DEFINITION. The bitstream codec and the datapath primitives shared by the engines (40_codec.md). -/

namespace Sys2Proof.Machine

open Sys2Proof

/-! The codec. -/

/-- The bits of a byte, most significant first (00_scope.md R12, 20_memory.md R89). -/
def byteBits (b : Byte) : List Bool :=
  [b.getLsbD 7, b.getLsbD 6, b.getLsbD 5, b.getLsbD 4, b.getLsbD 3, b.getLsbD 2, b.getLsbD 1, b.getLsbD 0]

/-- `TextToBits` (40_codec.md R140): the payload and one terminator byte, each MSB first. -/
def textToBits (payload : List Byte) : List Bool :=
  (payload ++ [terminator]).flatMap byteBits

/-- A bit shifted in at the least significant end of the accumulator (40_codec.md R144). -/
def shiftIn (acc : Byte) (b : Bool) : Byte := (acc <<< 1) ||| (if b then 1#8 else 0#8)

/-- The byte of eight bits, most significant first (40_codec.md R143). -/
def byteOfBits (bits : List Bool) : Byte := bits.foldl shiftIn 0#8

/-- Bits grouped into bytes MSB first, a trailing group of fewer than 8 bits discarded (40_codec.md R143). -/
def groupBytes : List Bool → List Byte
  | b7 :: b6 :: b5 :: b4 :: b3 :: b2 :: b1 :: b0 :: rest =>
    byteOfBits [b7, b6, b5, b4, b3, b2, b1, b0] :: groupBytes rest
  | _ => []

/-- `BitsToText` (40_codec.md R143): the bytes before the first 0x00, or all of them. -/
def bitsToText (c : List Bool) : List Byte :=
  (groupBytes c).takeWhile (· != terminator)

/-- What `ExtractStream` returns (40_codec.md R144). -/
structure Extracted where
  /-- The decoded bytes. -/
  out : List Byte
  /-- The carrier bits read. -/
  cnt : Nat
  /-- A terminator byte was found. -/
  term : Bool
deriving DecidableEq, Repr

/-- The loop of `ExtractStream` (40_codec.md R144) from a carrier position on: the accumulator holds `n` bits, `cnt` bits
were read and `out` was decoded so far. -/
def extractFrom : List Bool → Byte → Nat → Nat → List Byte → Extracted
  | [], _, _, cnt, out => { out := out, cnt := cnt, term := false }
  | b :: c, acc, n, cnt, out =>
    if n + 1 = 8 then
      if shiftIn acc b = terminator then { out := out, cnt := cnt + 1, term := true }
      else extractFrom c 0#8 0 (cnt + 1) (out ++ [shiftIn acc b])
    else extractFrom c (shiftIn acc b) (n + 1) (cnt + 1) out

/-- `ExtractStream` (40_codec.md R144). -/
def extractStream (c : List Bool) : Extracted := extractFrom c 0#8 0 0 []

/-! Pixels and coefficients. -/

/-- `Intensity(p) = p[7:0]`, the red channel (40_codec.md R148). -/
def intensity (p : Word) : Nat := (p.extractLsb' 0 8).toNat

/-- `Gray(v)`: R = G = B = v, A = 255 (40_codec.md R149). -/
def gray (v : Nat) : Word := 0xFF#8 ++ BitVec.ofNat 8 v ++ BitVec.ofNat 8 v ++ BitVec.ofNat 8 v

/-- `Q(x)` (40_codec.md R150): clamp to [0, 255], then the nearest integer of the exact value, ties away from zero. -/
def quantise (x : F64) : Nat :=
  if fLe x fZero then 0
  else if fLe f255 x then 255
  else
    let d := 1074 - fScale x
    let n := fMant x >>> d
    if 2 ^ d ≤ 2 * (fMant x % 2 ^ d) then n + 1 else n

/-- `ForceSign(c, bit, K)` (40_codec.md R151): `|c| + K` in binary64, negated for a 0 bit. -/
def forceSign (c : F64) (bit : Bool) (k : F64) : F64 :=
  let m := fAdd (fAbs c) k
  if bit then m else fNeg m

/-- `ReadSign(c)` (40_codec.md R153): 1 iff `c > 0.0`, so both zeros read 0. -/
def readSign (c : F64) : Bool := fLt fZero c

/-! Matrices, written `M[row][col]` (00_scope.md R15). -/

/-- A matrix as its list of rows. -/
abbrev Grid := List (List F64)

/-- `M[r][c]`. -/
def gridAt (g : Grid) (r c : Nat) : F64 := (g.getD r []).getD c fZero

/-- The matrix of `rows` rows and `cols` columns with the given entries. -/
def gridTab (rows cols : Nat) (f : Nat → Nat → F64) : Grid :=
  (List.range rows).map fun r => (List.range cols).map fun c => f r c

/-- The first `n` columns of a matrix, each as a list from the top row down. -/
def gridColumns (g : Grid) (n : Nat) : Grid :=
  (List.range n).map fun c => g.map fun row => row.getD c fZero

end Sys2Proof.Machine
end

