-- ==== Sys2Proof/Machine/State.lean ====
section
/-! DEFINITION. The state of STEGO-CORE as plain data (10_state.md), what happens to it next (host accesses, engine turns,
power-on), and the state after power-on reset (10_state.md R54). -/

namespace Sys2Proof.Machine

open Sys2Proof

/-- The fields of STATUS (10_state.md R37). Its reserved bits have no storage: they read 0 and ignore writes. -/
structure Status where
  /-- Bit 0: 1 from the issue step to the completion step of a command. -/
  busy : Bool
  /-- Bit 1: the last issued command has completed. -/
  done : Bool
  /-- Bit 2: the last completed command ended in an error. -/
  err : Bool
  /-- Bit 3: a host write was dropped because BUSY was 1. -/
  haz : Bool
  /-- Bit 4: the last completed EXTRACT found a terminator byte. -/
  term : Bool
  /-- Bits 11:8: the error code of 60_exceptions.md R300. -/
  errcode : BitVec 4
deriving DecidableEq, Repr

/-- STATUS after reset (10_state.md R54). -/
def Status.reset : Status :=
  { busy := false, done := false, err := false, haz := false, term := false, errcode := 0#4 }

/-- One memory of 10_state.md R49, by byte offset: the bytes written since power-on, offsets strictly rising. An unlisted
offset holds no written byte: it reads as the power-on draw (`Config.powerOnByte`, 10_state.md R50; assumption log 4). -/
abbrev Memory := List Host.Cell

/-- The width of a host access. Only the word is allowed (20_memory.md R90). -/
inductive AccessSize where
  | byte
  | half
  | word
deriving DecidableEq, Repr

/-- One host bus access (30_encoding.md R121): its address, its width and, for a write, its data. -/
inductive Access where
  | read (addr : Word) (size : AccessSize)
  | write (addr : Word) (size : AccessSize) (data : Word)
deriving DecidableEq, Repr

/-- What moves next (60_exceptions.md R313): a host access, the engine, or the reset input (70_reset_and_hazards.md R340). -/
inductive Turn where
  | host (a : Access)
  | engine
  | powerOn
deriving DecidableEq, Repr

/-- The response to a host access (20_memory.md R91). -/
inductive BusResponse where
  /-- A read that received no bus error, with its data. -/
  | readData (data : Word)
  /-- A write that received no bus error. -/
  | writeDone
  /-- A read with outcome BusError, with the data it returns, which the host must not use. -/
  | readBusError (data : Word)
  /-- A write with outcome BusError. -/
  | writeBusError
deriving DecidableEq, Repr

/-- What stops the machine: nothing. The spec gives the block no trap and no stop (60_exceptions.md R309, R322), every host
access completes (70_reset_and_hazards.md R361), a command error is the error path of 60_exceptions.md R305 and a bus error
is a response (20_memory.md R91); all of these are next states. So this type has no constructor, no step raises one, and
that is safe (assumption log 7). -/
inductive Fault where
deriving DecidableEq, Repr

/-- Why the model would decline an instruction. -/
inductive Refusal where
  /-- Raised by an arm of `exec` whose instruction has no meaning yet; no arm does so now. Safe: nothing can be concluded
  from a step that is refused. -/
  | notModelled (mnemonic : String)
deriving DecidableEq, Repr

/-- The state of the block and of what surrounds it. -/
structure State where
  /-- The implementation parameters (00_scope.md R8), never changed by a step (assumption log 1). -/
  params : Params
  /-- CTRL.IE (10_state.md R34). -/
  ie : Bool
  /-- CMD_LAST, the word last issued (10_state.md R35). -/
  cmdLast : Word
  /-- STATUS (10_state.md R37). -/
  status : Status
  /-- WIDTH[15:0] (10_state.md R40). -/
  width : Half
  /-- HEIGHT[15:0] (10_state.md R41). -/
  height : Half
  /-- PAYLOAD_LEN (10_state.md R42). -/
  payloadLen : Word
  /-- RESULT_LEN (10_state.md R43). -/
  resultLen : Word
  /-- BITCOUNT (10_state.md R44). -/
  bitcount : Word
  /-- CAPACITY (10_state.md R45). -/
  capacity : Word
  /-- The PAYLOAD memory (10_state.md R49). -/
  payload : Memory
  /-- The RESULT memory (10_state.md R49). -/
  result : Memory
  /-- The IMG_IN memory (10_state.md R49). -/
  imgIn : Memory
  /-- The IMG_OUT memory (10_state.md R49). -/
  imgOut : Memory
  /-- MODEL's own: which power-on the memory draws belong to (assumption log 4). -/
  epoch : Nat
  /-- MODEL's own: the number of the next draw (assumption log 5, 6). -/
  draws : Nat
  /-- MODEL's own: what happens next, the first entry first (assumption log 2). -/
  agenda : List Turn
  /-- MODEL's own: the response to the last host access (assumption log 8). -/
  response : Option BusResponse
deriving DecidableEq, Repr

/-- The machine right after power-on reset: 10_state.md R54, with the default parameters of 00_scope.md R8 and nothing
pending (assumption log 15). -/
def State.reset : State :=
  { params := Params.default
    ie := false
    cmdLast := 0#32
    status := Status.reset
    width := 0#16
    height := 0#16
    payloadLen := 0#32
    resultLen := 0#32
    bitcount := 0#32
    capacity := 0#32
    payload := []
    result := []
    imgIn := []
    imgOut := []
    epoch := 0
    draws := 0
    agenda := []
    response := none }

end Sys2Proof.Machine
end

