-- ==== Sys2Proof/Machine/Flags.lean ====
section
/-! DEFINITION. The STATUS flags: the word the host reads (10_state.md R37), what the issue step, the two completions and the
host's writes do to them, and the irq output (60_exceptions.md R310). -/

namespace Sys2Proof.Machine

open Sys2Proof

/-- The error codes of 60_exceptions.md R300; codes 5 to 15 are never produced. -/
inductive CmdError where
  /-- GeometryError (60_exceptions.md R303). -/
  | geometry
  /-- CapacityError (60_exceptions.md R304). -/
  | capacity
  /-- IllegalCommand (60_exceptions.md R301). -/
  | illegalCommand
  /-- ConfigError (60_exceptions.md R302). -/
  | config
deriving DecidableEq, Repr

/-- The value of STATUS.ERRCODE for an error (60_exceptions.md R300). -/
def errorCode : CmdError → BitVec 4
  | .geometry => 1#4
  | .capacity => 2#4
  | .illegalCommand => 3#4
  | .config => 4#4

/-- A flag at bit position `n` of a register. -/
def flagBit (b : Bool) (n : Nat) : Word := if b then 1#32 <<< n else 0#32

/-- The STATUS word (10_state.md R37): BUSY, DONE, ERR, HAZ, TERM at bits 0 to 4, ERRCODE at 11:8, every other bit 0. -/
def statusWord (t : Status) : Word :=
  flagBit t.busy 0 ||| flagBit t.done 1 ||| flagBit t.err 2 ||| flagBit t.haz 3 ||| flagBit t.term 4
    ||| (t.errcode.setWidth 32 <<< 8)

/-- What the issue step does to STATUS (44_validation.md R270): HAZ is unchanged. -/
def statusIssue (t : Status) : Status :=
  { t with busy := true, done := false, err := false, errcode := 0#4, term := false }

/-- What a successful completion does to STATUS (44_validation.md R272): ERR, ERRCODE and TERM stay as the issue step and the
body left them. -/
def statusSucceed (t : Status) : Status :=
  { t with busy := false, done := true }

/-- What the error path does to STATUS (60_exceptions.md R305): TERM and HAZ are unchanged. -/
def statusFail (e : CmdError) (t : Status) : Status :=
  { t with busy := false, done := true, err := true, errcode := errorCode e }

/-- A host write of `v` to STATUS (10_state.md R38): bit 1 clears DONE, bit 2 clears ERR and ERRCODE, bit 3 clears HAZ, and
no other bit of `v` acts. -/
def statusAck (v : Word) (t : Status) : Status :=
  { t with
    done := t.done && !v.getLsbD 1
    err := t.err && !v.getLsbD 2
    errcode := if v.getLsbD 2 then 0#4 else t.errcode
    haz := t.haz && !v.getLsbD 3 }

/-- A dropped host write sets the sticky HAZ (70_reset_and_hazards.md R350, R352). -/
def statusHazard (t : Status) : Status :=
  { t with haz := true }

/-- The irq output: a level, `CTRL.IE & STATUS.DONE` in every state (10_state.md R48, 60_exceptions.md R310). -/
def State.irq (s : State) : Bool := s.ie && s.status.done

end Sys2Proof.Machine
end

