-- ==== Sys2Proof/Machine/Ops.lean ====
section
/-! DEFINITION. The named operations over memories and registers: byte and word access (20_memory.md R80, R86, R88), the issue
step (44_validation.md R270), the error path every command error takes (60_exceptions.md R305) and, beside it, success
(44_validation.md R272) and the host's acknowledgement (10_state.md R38), which here stands where other machines return from
an exception (60_exceptions.md R309). -/

namespace Sys2Proof.Machine

open Sys2Proof

/-- The outcome of a step. -/
abbrev Outcome := Host.Outcome State Fault Refusal

/-! Bytes of one memory. -/

/-- The byte written at an offset since power-on, if one was. -/
def cellAt : Memory → Nat → Option Byte
  | [], _ => none
  | (b, v) :: m, a => if a = b then some v else cellAt m a

/-- One byte written at an offset. Offsets stay strictly rising. -/
def storeByte : Memory → Nat → Byte → Memory
  | [], a, v => [(a, v)]
  | (b, w) :: m, a, v =>
    if a < b then (a, v) :: (b, w) :: m
    else if a = b then (a, v) :: m
    else (b, w) :: storeByte m a v

/-- Bytes written at consecutive offsets, the first at `a` (20_memory.md R80). -/
def storeBytes : Memory → Nat → List Byte → Memory
  | m, _, [] => m
  | m, a, v :: vs => storeBytes (storeByte m a v) (a + 1) vs

/-- The four bytes of a word, the least significant first (20_memory.md R80, R85). -/
def wordBytes (w : Word) : List Byte :=
  [w.extractLsb' 0 8, w.extractLsb' 8 8, w.extractLsb' 16 8, w.extractLsb' 24 8]

/-- `MemWrite(space, a, 4, w)` (20_memory.md R80). -/
def storeWord (m : Memory) (a : Nat) (w : Word) : Memory := storeBytes m a (wordBytes w)

/-- Words written at consecutive word offsets, the first at byte offset `a`. -/
def storeWords (m : Memory) (a : Nat) (ws : List Word) : Memory := storeBytes m a (ws.flatMap wordBytes)

/-- The canonical form of a memory: offsets strictly rising. -/
abbrev Memory.wf (m : Memory) : Prop := m.Pairwise fun c d => c.1 < d.1

/-- Every listed offset lies in a memory of `n` bytes (20_memory.md R83). -/
abbrev Memory.inside (m : Memory) (n : Nat) : Prop := ∀ c ∈ m, c.1 < n

/-! The memories of the state. -/

/-- The memory named by a space (10_state.md R49). -/
def State.memOf (s : State) : Space → Memory
  | .payload => s.payload
  | .result => s.result
  | .imgIn => s.imgIn
  | .imgOut => s.imgOut

/-- The state with one memory replaced. -/
def State.setMem (s : State) (sp : Space) (m : Memory) : State :=
  match sp with
  | .payload => { s with payload := m }
  | .result => { s with result := m }
  | .imgIn => { s with imgIn := m }
  | .imgOut => { s with imgOut := m }

/-- `MemRead(space, a, 1)` (20_memory.md R80): the byte written last, else the draw of the last power-on (10_state.md R50,
70_reset_and_hazards.md R345). -/
def readByte (s : State) (sp : Space) (a : Nat) : Byte :=
  (cellAt (s.memOf sp) a).getD (Config.powerOnByte s.epoch sp a)

/-- `MemRead(space, a, 4)` (20_memory.md R80): little-endian. -/
def readWord (s : State) (sp : Space) (a : Nat) : Word :=
  readByte s sp (a + 3) ++ readByte s sp (a + 2) ++ readByte s sp (a + 1) ++ readByte s sp a

/-- `Pix(space, x, y)` for a carrier of width `w` (20_memory.md R86). -/
def pixel (s : State) (sp : Space) (w x y : Nat) : Word := readWord s sp (4 * (y * w + x))

/-- The output image of an EMBED written to IMG_OUT words 0, 1, ... in raster order: `SetPix` on every pixel
(20_memory.md R86; assumption log 10). -/
def State.storeImage (s : State) (image : List Word) : State :=
  { s with imgOut := storeWords s.imgOut 0 image }

/-- The bytes of an EXTRACT written to RESULT bytes 0, 1, ... : `SetResByte` (20_memory.md R88, 44_validation.md R276). -/
def State.storeResult (s : State) (out : List Byte) : State :=
  { s with result := storeBytes s.result 0 out }

/-! Issue, success and failure of a command. -/

/-- The issue step (44_validation.md R270): `v` is latched, BUSY set, the status of the last command cleared. -/
def State.issue (s : State) (v : Word) : State :=
  { s with cmdLast := v, status := statusIssue s.status }

/-- `Succeed()` (44_validation.md R272). -/
def State.succeed (s : State) : State :=
  { s with status := statusSucceed s.status }

/-- `Fail(code)` (60_exceptions.md R305): the error path writes STATUS only. -/
def State.fail (s : State) (e : CmdError) : State :=
  { s with status := statusFail e s.status }

/-- A host write to STATUS (10_state.md R38): the only way but the next issue to clear an error (60_exceptions.md R309). -/
def State.acknowledge (s : State) (v : Word) : State :=
  { s with status := statusAck v s.status }

/-- A host write dropped because BUSY = 1 (70_reset_and_hazards.md R350). -/
def State.dropWrite (s : State) : State :=
  { s with status := statusHazard s.status }

/-- The completion of a reserved command word (60_exceptions.md R301): no other check runs. -/
def completeIllegal (s : State) : Outcome := .next (s.fail .illegalCommand)

end Sys2Proof.Machine
end

