-- ==== Sys2Proof/Machine/Operands.lean ====
section
/-! DEFINITION. The operands of a command (30_encoding.md R113), the checks before its body (44_validation.md R275) and the
three completion shapes its body ends in (44_validation.md R271, R272, R276). -/

namespace Sys2Proof.Machine

open Sys2Proof

/-- `W = WIDTH[15:0]` (30_encoding.md R113). -/
def State.opW (s : State) : Nat := s.width.toNat

/-- `H = HEIGHT[15:0]` (30_encoding.md R113). -/
def State.opH (s : State) : Nat := s.height.toNat

/-- `L = PAYLOAD_LEN[31:0]` (30_encoding.md R113). -/
def State.opL (s : State) : Nat := s.payloadLen.toNat

/-- The payload bytes `PayByte(0..L-1)` (30_encoding.md R113, 44_validation.md R278). -/
def State.payloadBytes (s : State) : List Byte := (List.range s.opL).map (readByte s .payload)

/-- `Pix(IMG_IN, x, y)` of the carrier (20_memory.md R86). -/
def State.carrier (s : State) (x y : Nat) : Word := pixel s .imgIn s.opW x y

/-! Checks. -/

/-- `ConfigOK(op, W, H, L)` (60_exceptions.md R302). -/
def configOK (op : Op) (s : State) : Bool :=
  decide (1 ≤ s.opW ∧ s.opW ≤ s.params.maxW ∧ 1 ≤ s.opH ∧ s.opH ≤ s.params.maxH)
    && (op != .embed || decide (s.opL ≤ s.params.payloadBytes))

/-- `Cap(eng, W, H)` in bits (44_validation.md R273): CapLSB R171, CapDCT R199, CapDWT R243. -/
def cap : Engine → Nat → Nat → Nat
  | .lsb, w, h => w * h
  | .dct, w, h => w * h / 64
  | .dwt, w, h => w * h / 4 / 16

/-- `n` is a power of two and at least 2 (43_dwt.md R239). -/
def powerOfTwo (n : Nat) : Bool := decide (2 ≤ n ∧ 2 ^ Nat.log2 n = n)

/-- The geometry precondition of an EMBED: none for LSB (41_lsb.md R175), GeoDCT (42_dct.md R198), GeoDWT (43_dwt.md
R239). -/
def geometryOK : Engine → Nat → Nat → Bool
  | .lsb, _, _ => true
  | .dct, w, h => decide (w % 8 = 0 ∧ h % 8 = 0)
  | .dwt, w, h => powerOfTwo w && powerOfTwo h

/-- The checks of a legal command, in the order of 44_validation.md R275 and 60_exceptions.md R306: CONFIG, then for an EMBED
the geometry and the capacity. The first that fails is the error reported. -/
def commandCheck (op : Op) (eng : Engine) (s : State) : Option CmdError :=
  if !configOK op s then some .config
  else match op with
    | .embed =>
      if !geometryOK eng s.opW s.opH then some .geometry
      else if cap eng s.opW s.opH < 8 * (s.opL + 1) then some .capacity
      else none
    | .extract => none
    | .capacity => none

/-! Completions. -/

/-- An EMBED: the checks, then the bit sequence of the payload, the output image into IMG_OUT and BITCOUNT (44_validation.md
R271, R272, R275). -/
def completeEmbed (eng : Engine) (image : State → List Bool → List Word) (s : State) : Outcome :=
  match commandCheck .embed eng s with
  | some e => .next (s.fail e)
  | none =>
    let bits := textToBits s.payloadBytes
    let written := s.storeImage (image s bits)
    .next { written with bitcount := BitVec.ofNat 32 bits.length }.succeed

/-- An EXTRACT: the checks, then the carrier bits decoded into RESULT, RESULT_LEN, BITCOUNT and TERM (44_validation.md R271,
R272, R276). -/
def completeExtract (eng : Engine) (stream : State → List Bool) (s : State) : Outcome :=
  match commandCheck .extract eng s with
  | some e => .next (s.fail e)
  | none =>
    let r := extractStream (stream s)
    let written := s.storeResult r.out
    .next { written with
      resultLen := BitVec.ofNat 32 r.out.length
      bitcount := BitVec.ofNat 32 r.cnt
      status := { s.status with term := r.term } }.succeed

/-- A CAPACITY: the checks, then the capacity into CAPACITY (44_validation.md R271 to R273). -/
def completeCapacity (eng : Engine) (s : State) : Outcome :=
  match commandCheck .capacity eng s with
  | some e => .next (s.fail e)
  | none => .next { s with capacity := BitVec.ofNat 32 (cap eng s.opW s.opH) }.succeed

end Sys2Proof.Machine
end

