-- ==== Sys2Proof/Machine/Reset.lean ====
section
/-! DEFINITION. Power-on reset and soft reset, with the abort of a command in flight (70_reset_and_hazards.md R340 to R343). -/

namespace Sys2Proof.Machine

open Sys2Proof

/-- Every register field at its reset value (10_state.md R54); memories, parameters and the model's own fields stay. -/
def State.resetRegisters (s : State) : State :=
  { s with
    ie := false
    cmdLast := 0#32
    status := Status.reset
    width := 0#16
    height := 0#16
    payloadLen := 0#32
    resultLen := 0#32
    bitcount := 0#32
    capacity := 0#32 }

/-- Power-on reset (70_reset_and_hazards.md R340): the registers reset, every byte of every memory a new draw (10_state.md
R50). The parameters and what the host does next are outside the block (assumption log 12). -/
def powerOnReset (s : State) : State :=
  { s.resetRegisters with
    payload := []
    result := []
    imgIn := []
    imgOut := []
    epoch := s.epoch + 1
    response := none }

/-- The memory, and how many of its first bytes, that the command in flight could have written (70_reset_and_hazards.md
R343): IMG_OUT words 0..W·H-1 for an EMBED, RESULT bytes 0..(W·H) div 8 - 1 for an EXTRACT, nothing for a CAPACITY or for a
command whose word or operands would fail their checks (assumption log 11). -/
def abortRange (s : State) : Option (Space × Nat) :=
  match decode s.cmdLast with
  | .error _ => none
  | .ok i =>
    match commandCheck i.op i.engine s with
    | some _ => none
    | none =>
      match i.op with
      | .embed => some (.imgOut, 4 * (s.opW * s.opH))
      | .extract => some (.result, s.opW * s.opH / 8)
      | .capacity => none

/-- What aborting the command in flight leaves in memory (70_reset_and_hazards.md R343): each byte it could have written is a
draw, fixed at the reset. -/
def abortCommand (s : State) : State :=
  match abortRange s with
  | none => s
  | some (sp, n) =>
    let left := (List.range n).map (Config.abortByte s.draws sp)
    { s.setMem sp (storeBytes (s.memOf sp) 0 left) with draws := s.draws + 1 }

/-- Soft reset (70_reset_and_hazards.md R342): a command in flight is aborted, then every register field takes its reset
value. -/
def softReset (s : State) : State :=
  if s.status.busy then (abortCommand s).resetRegisters else s.resetRegisters

end Sys2Proof.Machine
end

