-- ==== Sys2Proof/Machine/Bus.lean ====
section
/-! DEFINITION. Host bus accesses: the address map (20_memory.md R81, R83), the register file (10_state.md section 2), the
busy hazard (70_reset_and_hazards.md R350) and bus errors (20_memory.md R91). -/

namespace Sys2Proof.Machine

open Sys2Proof

/-- The registers of 10_state.md section 2; the reserved offsets of R46 are one constructor. -/
inductive Register where
  | id
  | ctrl
  | cmd
  | status
  | width
  | height
  | payloadLen
  | resultLen
  | bitcount
  | capacity
  | reserved
deriving DecidableEq, Repr

/-- What an address maps to (20_memory.md R81). -/
inductive Target where
  | register (r : Register)
  | memory (sp : Space) (offset : Nat)
deriving DecidableEq, Repr

/-- The register at an offset of the register window (10_state.md section 2). -/
def registerAt (offset : Nat) : Register :=
  match offset with
  | 0x00 => .id
  | 0x04 => .ctrl
  | 0x08 => .cmd
  | 0x0C => .status
  | 0x10 => .width
  | 0x14 => .height
  | 0x18 => .payloadLen
  | 0x1C => .resultLen
  | 0x20 => .bitcount
  | 0x24 => .capacity
  | _ => .reserved

/-- The size of the register window (20_memory.md R81). -/
def registerWindow : Nat := 0x40

/-- The base address of each memory region (20_memory.md R81). -/
def regionBase : Space → Nat
  | .payload => 0x00100000
  | .result => 0x00200000
  | .imgIn => 0x01000000
  | .imgOut => 0x02000000

/-- The address lies in the region of a memory, which is mapped only up to its size (20_memory.md R81, R83). -/
abbrev inRegion (p : Params) (sp : Space) (a : Nat) : Prop :=
  regionBase sp ≤ a ∧ a < regionBase sp + p.size sp

/-- The address map (20_memory.md R81); none is an unmapped address. -/
def targetOf (p : Params) (a : Nat) : Option Target :=
  if a < registerWindow then some (.register (registerAt a))
  else if inRegion p .payload a then some (.memory .payload (a - regionBase .payload))
  else if inRegion p .result a then some (.memory .result (a - regionBase .result))
  else if inRegion p .imgIn a then some (.memory .imgIn (a - regionBase .imgIn))
  else if inRegion p .imgOut a then some (.memory .imgOut (a - regionBase .imgOut))
  else none

/-- What a host access reaches; none is a bus error: a sub-word width, a misaligned address or an unmapped one
(20_memory.md R90, R91). -/
def accessTarget (p : Params) (addr : Word) (size : AccessSize) : Option Target :=
  if size = .word ∧ addr.toNat % 4 = 0 then targetOf p addr.toNat else none

/-- The value of the ID register (10_state.md R33). -/
def idValue : Word := 0x53544701#32

/-- What a host read of a register returns (10_state.md R33 to R46). -/
def readRegister (s : State) : Register → Word
  | .id => idValue
  | .ctrl => flagBit s.ie 0
  | .cmd => s.cmdLast
  | .status => statusWord s.status
  | .width => s.width.setWidth 32
  | .height => s.height.setWidth 32
  | .payloadLen => s.payloadLen
  | .resultLen => s.resultLen
  | .bitcount => s.bitcount
  | .capacity => s.capacity
  | .reserved => 0#32

/-- A host write to CTRL (10_state.md R34): bit 1 is the soft reset, whatever bit 0 is (70_reset_and_hazards.md R342);
without it bit 0 is IE. -/
def writeCtrl (s : State) (v : Word) : State :=
  if v.getLsbD 1 then softReset s else { s with ie := v.getLsbD 0 }

/-- A host write to CMD (10_state.md R35, R36): an issue step, or dropped while BUSY = 1. -/
def writeCmd (s : State) (v : Word) : State :=
  if s.status.busy then s.dropWrite else s.issue v

/-- A host write of a register (10_state.md R33 to R47, 70_reset_and_hazards.md R350). -/
def writeRegister (s : State) (r : Register) (v : Word) : State :=
  match r with
  | .ctrl => writeCtrl s v
  | .cmd => writeCmd s v
  | .status => s.acknowledge v
  | .width => if s.status.busy then s.dropWrite else { s with width := v.extractLsb' 0 16 }
  | .height => if s.status.busy then s.dropWrite else { s with height := v.extractLsb' 0 16 }
  | .payloadLen => if s.status.busy then s.dropWrite else { s with payloadLen := v }
  | .id | .resultLen | .bitcount | .capacity | .reserved => s

/-- A host write of a memory word (20_memory.md R93), dropped while BUSY = 1 (70_reset_and_hazards.md R350). -/
def writeMemory (s : State) (sp : Space) (offset : Nat) (v : Word) : State :=
  if s.status.busy then s.dropWrite else s.setMem sp (storeWord (s.memOf sp) offset v)

/-- A memory a command in flight may be writing (20_memory.md R98). -/
def isOutput (sp : Space) : Bool := sp == .imgOut || sp == .result

/-- The state with the response of a host access. -/
def State.respond (s : State) (r : BusResponse) : State := { s with response := some r }

/-- A host read (20_memory.md R91, R93, R98): the register or word; of IMG_OUT or RESULT while BUSY = 1, a new draw. -/
def hostRead (s : State) (addr : Word) (size : AccessSize) : State :=
  match accessTarget s.params addr size with
  | none => s.respond (.readBusError 0#32)
  | some (.register r) => s.respond (.readData (readRegister s r))
  | some (.memory sp offset) =>
    if s.status.busy && isOutput sp then
      { s.respond (.readData (Config.busyReadWord s.draws)) with draws := s.draws + 1 }
    else s.respond (.readData (readWord s sp offset))

/-- A host write (20_memory.md R91, R93): one that receives a bus error changes nothing of the block. -/
def hostWrite (s : State) (addr : Word) (size : AccessSize) (v : Word) : State :=
  match accessTarget s.params addr size with
  | none => s.respond .writeBusError
  | some (.register r) => (writeRegister s r v).respond .writeDone
  | some (.memory sp offset) => (writeMemory s sp offset v).respond .writeDone

/-- One host bus access, atomic (20_memory.md R92). -/
def hostAccess (s : State) : Access → State
  | .read addr size => hostRead s addr size
  | .write addr size data => hostWrite s addr size data

end Sys2Proof.Machine
end

