-- ==== Sys2Proof/Machine/Dct.lean ====
section
/-! DEFINITION. The DCT engine (42_dct.md): EMBED.DCT, EXTRACT.DCT, CAPACITY.DCT. -/

namespace Sys2Proof.Machine

open Sys2Proof

/-! The transform. -/

/-- The table `COS[n][k]` of 42_dct.md R190, rows n. -/
def cosTable : Grid :=
  [[0x3FF0000000000000#64, 0x3FEF6297CFF75CB0#64, 0x3FED906BCF328D46#64, 0x3FEA9B66290EA1A3#64, 0x3FE6A09E667F3BCD#64, 0x3FE1C73B39AE68C8#64, 0x3FD87DE2A6AEA963#64, 0x3FC8F8B83C69A60B#64],
   [0x3FF0000000000000#64, 0x3FEA9B66290EA1A3#64, 0x3FD87DE2A6AEA963#64, 0xBFC8F8B83C69A60B#64, 0xBFE6A09E667F3BCD#64, 0xBFEF6297CFF75CB0#64, 0xBFED906BCF328D46#64, 0xBFE1C73B39AE68C8#64],
   [0x3FF0000000000000#64, 0x3FE1C73B39AE68C8#64, 0xBFD87DE2A6AEA963#64, 0xBFEF6297CFF75CB0#64, 0xBFE6A09E667F3BCD#64, 0x3FC8F8B83C69A60B#64, 0x3FED906BCF328D46#64, 0x3FEA9B66290EA1A3#64],
   [0x3FF0000000000000#64, 0x3FC8F8B83C69A60B#64, 0xBFED906BCF328D46#64, 0xBFE1C73B39AE68C8#64, 0x3FE6A09E667F3BCD#64, 0x3FEA9B66290EA1A3#64, 0xBFD87DE2A6AEA963#64, 0xBFEF6297CFF75CB0#64],
   [0x3FF0000000000000#64, 0xBFC8F8B83C69A60B#64, 0xBFED906BCF328D46#64, 0x3FE1C73B39AE68C8#64, 0x3FE6A09E667F3BCD#64, 0xBFEA9B66290EA1A3#64, 0xBFD87DE2A6AEA963#64, 0x3FEF6297CFF75CB0#64],
   [0x3FF0000000000000#64, 0xBFE1C73B39AE68C8#64, 0xBFD87DE2A6AEA963#64, 0x3FEF6297CFF75CB0#64, 0xBFE6A09E667F3BCD#64, 0xBFC8F8B83C69A60B#64, 0x3FED906BCF328D46#64, 0xBFEA9B66290EA1A3#64],
   [0x3FF0000000000000#64, 0xBFEA9B66290EA1A3#64, 0x3FD87DE2A6AEA963#64, 0x3FC8F8B83C69A60B#64, 0xBFE6A09E667F3BCD#64, 0x3FEF6297CFF75CB0#64, 0xBFED906BCF328D46#64, 0x3FE1C73B39AE68C8#64],
   [0x3FF0000000000000#64, 0xBFEF6297CFF75CB0#64, 0x3FED906BCF328D46#64, 0xBFEA9B66290EA1A3#64, 0x3FE6A09E667F3BCD#64, 0xBFE1C73B39AE68C8#64, 0x3FD87DE2A6AEA963#64, 0xBFC8F8B83C69A60B#64]]

/-- `COS[n][k]` (42_dct.md R190). -/
def cosAt (n k : Nat) : F64 := gridAt cosTable n k

/-- `CU[k]`: C0 = rn(1/√2) for k = 0, else 1.0 (42_dct.md R190). -/
def cuAt (k : Nat) : F64 := if k = 0 then 0x3FE6A09E667F3BCD#64 else fOne

/-- `FDCT(f)[u][v]` (42_dct.md R192), the direct double sum in its order. -/
def fdctAt (f : Grid) (u v : Nat) : F64 :=
  let sum := (List.range 8).foldl (fun s i =>
    (List.range 8).foldl (fun s j => fAdd s (fMul (fMul (gridAt f i j) (cosAt i u)) (cosAt j v))) s) fZero
  fMul (fMul (fMul fQuarter (cuAt u)) (cuAt v)) sum

/-- `FDCT(f)` (42_dct.md R192). -/
def fdct (f : Grid) : Grid := gridTab 8 8 (fdctAt f)

/-- `IDCT(F)[i][j]` (42_dct.md R193), in its order. -/
def idctAt (c : Grid) (i j : Nat) : F64 :=
  let sum := (List.range 8).foldl (fun s u =>
    (List.range 8).foldl (fun s v =>
      fAdd s (fMul (fMul (fMul (fMul (cuAt u) (cuAt v)) (gridAt c u v)) (cosAt i u)) (cosAt j v))) s) fZero
  fMul fQuarter sum

/-- `IDCT(F)` (42_dct.md R193). -/
def idct (c : Grid) : Grid := gridTab 8 8 (idctAt c)

/-- `F43(f)`: the entry [4][3] of `FDCT(f)` alone (42_dct.md R194). -/
def f43 (f : Grid) : F64 := fdctAt f sigU sigV

/-! Blocks. -/

/-- `NBX = W div 8` (42_dct.md R196). -/
def State.blocksX (s : State) : Nat := s.opW / blockEdge

/-- `NB = NBX · NBY`, whole blocks only (42_dct.md R196, R205). -/
def State.blocks (s : State) : Nat := s.blocksX * (s.opH / blockEdge)

/-- The carrier pixel of sample (i, j) of block `b` (42_dct.md R196). -/
def State.blockPixel (s : State) (b i j : Nat) : Word :=
  s.carrier (blockEdge * (b % s.blocksX) + j) (blockEdge * (b / s.blocksX) + i)

/-- `LoadBlock(b)` (42_dct.md R197): the red channel shifted by -128. -/
def loadBlock (s : State) (b : Nat) : Grid :=
  gridTab 8 8 fun i j => fSub (fOfNat (intensity (s.blockPixel b i j))) levelShift

/-- The coefficients with [4][3] forced to signal a bit, the other 63 as they are (42_dct.md R203). -/
def forceF43 (c : Grid) (bit : Bool) : Grid :=
  gridTab 8 8 fun u v =>
    if u = sigU ∧ v = sigV then forceSign (gridAt c u v) bit kDct else gridAt c u v

/-- The 64 samples `g` that `EmbedBlock(b, bit)` computes before the shift back (42_dct.md R203). -/
def embedBlock (s : State) (b : Nat) (bit : Bool) : Grid := idct (forceF43 (fdct (loadBlock s b)) bit)

/-- The output pixel of a sample of a processed block: shifted back, quantised, gray and opaque (42_dct.md R203). -/
def blockSample (g : Grid) (i j : Nat) : Word := gray (quantise (fAdd (gridAt g i j) levelShift))

/-- The output image of EMBED.DCT in raster order (42_dct.md R200). The pixel at column x and row y is the sample
(y mod 8, x mod 8) of block (y div 8)·NBX + x div 8 (R196); a block beyond the bit sequence is copied whole (R204). -/
def dctImage (s : State) (bits : List Bool) : List Word :=
  let processed := bits.mapIdx fun b bit => embedBlock s b bit
  (List.range (s.opW * s.opH)).map fun k =>
    let x := k % s.opW
    let y := k / s.opW
    match processed[y / blockEdge * s.blocksX + x / blockEdge]? with
    | some g => blockSample g (y % blockEdge) (x % blockEdge)
    | none => s.carrier x y

/-- The DCT carrier stream in block raster order (42_dct.md R201). -/
def dctStream (s : State) : List Bool :=
  (List.range s.blocks).map fun b => readSign (f43 (loadBlock s b))

/-! The commands. -/

/-- EMBED.DCT (42_dct.md R200). -/
def execEmbedDct (s : State) : Outcome := completeEmbed .dct dctImage s

/-- EXTRACT.DCT (42_dct.md R201). -/
def execExtractDct (s : State) : Outcome := completeExtract .dct dctStream s

/-- CAPACITY.DCT (42_dct.md R202). -/
def execCapacityDct (s : State) : Outcome := completeCapacity .dct s

end Sys2Proof.Machine
end

