-- ==== Sys2Proof/Machine/Dwt.lean ====
section
/-! DEFINITION. The DWT engine (43_dwt.md): EMBED.DWT, EXTRACT.DWT, CAPACITY.DWT. -/

namespace Sys2Proof.Machine

open Sys2Proof

/-! The transform. -/

/-- `SQRT2 = rn(√2)` (43_dwt.md R230). -/
def sqrt2 : F64 := 0x3FF6A09E667F3BCD#64

/-- `(a + b) / SQRT2` (43_dwt.md R231, R232). -/
def haarSum (a b : F64) : F64 := fDiv (fAdd a b) sqrt2

/-- `(a - b) / SQRT2` (43_dwt.md R231, R232). -/
def haarDiff (a b : F64) : F64 := fDiv (fSub a b) sqrt2

/-- `f a[2i] a[2i+1]` for each whole pair; the last element of an odd sequence takes no part (43_dwt.md R231). -/
def mapPairs (f : F64 → F64 → F64) : List F64 → List F64
  | a :: b :: rest => f a b :: mapPairs f rest
  | _ => []

/-- `Haar1D(a)` (43_dwt.md R231): the approximations, then the details. -/
def haar1D (a : List F64) : List F64 := mapPairs haarSum a ++ mapPairs haarDiff a

/-- `IHaar1D(t)` (43_dwt.md R232). -/
def ihaar1D (t : List F64) : List F64 :=
  let m := t.length / 2
  ((t.take m).zip (t.drop m)).flatMap fun p => [haarSum p.1 p.2, haarDiff p.1 p.2]

/-- `Haar2D(g)` of a matrix of `h` rows and `w` columns (43_dwt.md R233): every row, then every column. -/
def haar2D (h w : Nat) (g : Grid) : Grid :=
  let r := g.map haar1D
  let columns := (gridColumns r (2 * (w / 2))).map haar1D
  gridColumns columns (2 * (h / 2))

/-- `IHaar2D(T)` of a matrix of `h` rows and `w` columns, both even (43_dwt.md R234): every column, then every row. -/
def ihaar2D (h w : Nat) (t : Grid) : Grid :=
  let columns := (gridColumns t w).map ihaar1D
  (gridColumns columns h).map ihaar1D

/-! The carrier. -/

/-- The intensities of the carrier, with no level shift (43_dwt.md R240, R241). -/
def intensities (s : State) : Grid :=
  gridTab s.opH s.opW fun y x => fOfNat (intensity (s.carrier x y))

/-- HL coefficient `k` of a transformed matrix whose HL rows have `w2` entries (43_dwt.md R235, R236). -/
def hlAt (t : Grid) (w2 k : Nat) : F64 := gridAt t (k / w2) (w2 + k % w2)

/-- The HL coefficients below the length of the bit sequence forced to signal their bits, every other entry as it is
(43_dwt.md R240). Entry [i][x] of HL has index `i·W2 + (x - W2)` (R236). -/
def forceHL (t : Grid) (w2 : Nat) (bits : List Bool) : Grid :=
  t.mapIdx fun i row => row.mapIdx fun x c =>
    if x < w2 then c
    else match bits[i * w2 + (x - w2)]? with
      | some bit => forceSign c bit kDwt
      | none => c

/-- The matrix `g'` of EMBED.DWT before it is quantised (43_dwt.md R240). -/
def embedWavelet (s : State) (bits : List Bool) : Grid :=
  ihaar2D s.opH s.opW (forceHL (haar2D s.opH s.opW (intensities s)) (s.opW / 2) bits)

/-- The output image of EMBED.DWT in raster order: every pixel gray and opaque (43_dwt.md R240, R247). -/
def dwtImage (s : State) (bits : List Bool) : List Word :=
  let g := embedWavelet s bits
  (List.range (s.opW * s.opH)).map fun k => gray (quantise (gridAt g (k / s.opW) (k % s.opW)))

/-- The DWT carrier stream: the whole HL subband in row-major order, nothing when a dimension is below 2 (43_dwt.md R241,
R245, R246). -/
def dwtStream (s : State) : List Bool :=
  if s.opW < 2 ∨ s.opH < 2 then []
  else
    let t := haar2D s.opH s.opW (intensities s)
    (List.range (s.opH / 2 * (s.opW / 2))).map fun k => readSign (hlAt t (s.opW / 2) k)

/-! The commands. -/

/-- EMBED.DWT (43_dwt.md R240). -/
def execEmbedDwt (s : State) : Outcome := completeEmbed .dwt dwtImage s

/-- EXTRACT.DWT (43_dwt.md R241). -/
def execExtractDwt (s : State) : Outcome := completeExtract .dwt dwtStream s

/-- CAPACITY.DWT (43_dwt.md R242). -/
def execCapacityDwt (s : State) : Outcome := completeCapacity .dwt s

end Sys2Proof.Machine
end

