-- ==== Sys2Proof/Machine/Lsb.lean ====
section
/-! DEFINITION. The LSB engine (41_lsb.md): EMBED.LSB, EXTRACT.LSB, CAPACITY.LSB. -/

namespace Sys2Proof.Machine

open Sys2Proof

/-- `{p[31:1], bit}`: the least significant bit of the red channel replaced (41_lsb.md R172). -/
def setRedLsb (p : Word) (bit : Bool) : Word := p.extractLsb' 1 31 ++ BitVec.ofBool bit

/-- The output image of EMBED.LSB in raster order (41_lsb.md R170, R172): pixel `k` carries bit `k` of the sequence while
there is one, and is copied whole afterwards. -/
def lsbImage (s : State) (bits : List Bool) : List Word :=
  (List.range (s.opW * s.opH)).map fun k =>
    let p := s.carrier (k % s.opW) (k / s.opW)
    match bits[k]? with
    | some b => setRedLsb p b
    | none => p

/-- The LSB carrier stream in raster order (41_lsb.md R170, R173). -/
def lsbStream (s : State) : List Bool :=
  (List.range (s.opW * s.opH)).map fun k => (s.carrier (k % s.opW) (k / s.opW)).getLsbD 0

/-- EMBED.LSB (41_lsb.md R172). -/
def execEmbedLsb (s : State) : Outcome := completeEmbed .lsb lsbImage s

/-- EXTRACT.LSB (41_lsb.md R173). -/
def execExtractLsb (s : State) : Outcome := completeExtract .lsb lsbStream s

/-- CAPACITY.LSB (41_lsb.md R174). -/
def execCapacityLsb (s : State) : Outcome := completeCapacity .lsb s

end Sys2Proof.Machine
end

