-- ==== Sys2Proof/Machine/Dispatch.lean ====
section
/-! DEFINITION. The completion step of each legal command (44_validation.md R271, R277): one arm per row of the opcode table. -/

namespace Sys2Proof.Machine

open Sys2Proof

def exec (i : Instr) (s : State) : Host.Outcome State Fault Refusal :=
  match i with
  | .embedLsb => Sys2Proof.Machine.execEmbedLsb s
  | .extractLsb => Sys2Proof.Machine.execExtractLsb s
  | .capacityLsb => Sys2Proof.Machine.execCapacityLsb s
  | .embedDct => Sys2Proof.Machine.execEmbedDct s
  | .extractDct => Sys2Proof.Machine.execExtractDct s
  | .capacityDct => Sys2Proof.Machine.execCapacityDct s
  | .embedDwt => Sys2Proof.Machine.execEmbedDwt s
  | .extractDwt => Sys2Proof.Machine.execExtractDwt s
  | .capacityDwt => Sys2Proof.Machine.execCapacityDwt s

end Sys2Proof.Machine
end

