-- ==== Sys2Proof/Machine/Engine.lean ====
section
/-! DEFINITION. A turn of the engine: the completion of the command in flight (44_validation.md R271). -/

namespace Sys2Proof.Machine

open Sys2Proof

/-- The completion step (44_validation.md R271): CMD_LAST is decoded; a reserved word completes with IllegalCommand. -/
def complete (s : State) : Outcome :=
  match decode s.cmdLast with
  | .error _ => completeIllegal s
  | .ok i => exec i s

/-- A turn of the engine: the completion step when BUSY = 1 (44_validation.md R271), else nothing, the block being idle
(60_exceptions.md R321). -/
def engineTurn (s : State) : Outcome :=
  if s.status.busy then complete s else .next s

end Sys2Proof.Machine
end

