-- ==== Sys2Proof/Machine/Step.lean ====
section
/-! DEFINITION. One step of the machine (60_exceptions.md R313): one host access, one turn of the engine, or power-on. -/

namespace Sys2Proof.Machine

open Sys2Proof

/-- One step: the first entry of the agenda; with nothing on it, the engine moves (assumption log 2). -/
def step (s : State) : Outcome :=
  match s.agenda with
  | [] => engineTurn s
  | .host a :: rest => .next (hostAccess { s with agenda := rest } a)
  | .engine :: rest => engineTurn { s with agenda := rest }
  | .powerOn :: rest => .next (powerOnReset { s with agenda := rest })

/-- The command word `w` of `nbits` bits issued (10_state.md R35, 44_validation.md R270) with no host access pending, so that
the next step is its completion. The block fetches no instruction (R31): this stands for the host's write to CMD
(assumption log 3). -/
def State.withFetchWord (s : State) (nbits w : Nat) : State :=
  { s.issue (tableWord nbits w) with agenda := [] }

end Sys2Proof.Machine
end

