-- ==== Sys2Proof/Safety.lean ====
section
/-! DEFINITION. What counts as a sound state of the block, and the frame relations the statements use. -/

namespace Sys2Proof.Machine

open Sys2Proof

/-- The invariants of STATUS (10_state.md R39 (a), (b), (c)). -/
abbrev Status.Sound (t : Status) : Prop :=
  (t.busy = true → t.done = false ∧ t.err = false ∧ t.errcode = 0#4 ∧ t.term = false)
    ∧ (t.err = false ↔ t.errcode = 0#4)
    ∧ (t.err = true → t.term = false)

/-- ERRCODE holds a code of 60_exceptions.md R300: "Codes 5 to 15 are reserved and never produced." -/
abbrev Status.CodeProduced (t : Status) : Prop := t.errcode.toNat ≤ 4

/-- Every memory is in canonical form and lists only offsets it has (20_memory.md R83). -/
def State.MemorySound (s : State) : Prop :=
  ∀ sp, (s.memOf sp).wf ∧ (s.memOf sp).inside (s.params.size sp)

/-- A sound state: legal parameters (00_scope.md R8), the STATUS invariants and sound memories. -/
def State.Sound (s : State) : Prop :=
  s.params.wf = true ∧ s.status.Sound ∧ s.status.CodeProduced ∧ s.MemorySound

/-- `1 ≤ W ≤ MAX_W` and `1 ≤ H ≤ MAX_H` (60_exceptions.md R302). -/
abbrev State.GeometryInRange (s : State) : Prop :=
  (1 ≤ s.width.toNat ∧ s.width.toNat ≤ s.params.maxW) ∧ (1 ≤ s.height.toNat ∧ s.height.toNat ≤ s.params.maxH)

/-- `L ≤ PAYLOAD_BYTES` (60_exceptions.md R302). -/
abbrev State.PayloadInRange (s : State) : Prop := s.payloadLen.toNat ≤ s.params.payloadBytes

/-- Every byte of a memory reads as before. -/
def SameBytes (sp : Space) (s t : State) : Prop := ∀ a, readByte t sp a = readByte s sp a

/-- What no completion step changes: the parameters, CTRL, CMD_LAST, the operand registers (44_validation.md R272) and the
model's own fields. -/
def SameControl (s t : State) : Prop :=
  t.params = s.params ∧ t.ie = s.ie ∧ t.cmdLast = s.cmdLast ∧ t.width = s.width ∧ t.height = s.height
    ∧ t.payloadLen = s.payloadLen ∧ t.epoch = s.epoch ∧ t.draws = s.draws ∧ t.agenda = s.agenda ∧ t.response = s.response

/-- STATUS after a command that ended in the error with the given code (60_exceptions.md R305). -/
def failedStatus (t : Status) (code : BitVec 4) : Status :=
  { busy := false, done := true, err := true, haz := t.haz, term := t.term, errcode := code }

/-- STATUS after a command that succeeded and left TERM at the given value (44_validation.md R272). -/
def succeededStatus (t : Status) (term : Bool) : Status :=
  { busy := false, done := true, err := t.err, haz := t.haz, term := term, errcode := t.errcode }

end Sys2Proof.Machine
end

