-- ==== Sys2Proof/Certificates/Slice0/Obligations.lean ====
section
/-! DEFINITION. The statements about STEGO-CORE, made from the numbered rules of spec/. Each docstring names the rule a
statement formalises. -/

open Sys2Proof Sys2Proof.Machine

/-! ## Encoding and dispatch -/

/-- 30_encoding.md R117 with the table of R115: decode and encode agree. Every command's word decodes to that command, a word
that decodes to a command is that command's word (the full 32 bits), any other word decodes to none, and the words are those of
the table. -/
def Obligations.DecodeInvertsEncode : Prop :=
  (∀ i, decode (encode i) = .ok i)
    ∧ (∀ v i, decode v = .ok i → v = encode i)
    ∧ (∀ v, (∀ i, v ≠ encode i) → ∃ e, decode v = .error e)
    ∧ [Instr.embedLsb, .extractLsb, .capacityLsb, .embedDct, .extractDct, .capacityDct, .embedDwt, .extractDwt,
        .capacityDwt].map encode
      = [0x00000001#32, 0x00000002#32, 0x00000003#32, 0x00000011#32, 0x00000012#32, 0x00000013#32, 0x00000021#32,
        0x00000022#32, 0x00000023#32]

/-- 30_encoding.md R110 to R112, R115, R116: the three conditions on the fields of a word say exactly which words decode, and
the fields of a decoded word name its operation and engine. -/
def Obligations.LegalFieldsDecode : Prop :=
  ∀ v : Word,
    ((∃ i, decode v = .ok i) ↔
      (v.toNat % 16 = 1 ∨ v.toNat % 16 = 2 ∨ v.toNat % 16 = 3)
        ∧ (v.toNat / 16 % 4 = 0 ∨ v.toNat / 16 % 4 = 1 ∨ v.toNat / 16 % 4 = 2) ∧ v.toNat / 64 = 0)
    ∧ ∀ i, decode v = .ok i →
      (i.op = .embed ↔ v.toNat % 16 = 1) ∧ (i.op = .extract ↔ v.toNat % 16 = 2) ∧ (i.op = .capacity ↔ v.toNat % 16 = 3)
        ∧ (i.engine = .lsb ↔ v.toNat / 16 % 4 = 0) ∧ (i.engine = .dct ↔ v.toNat / 16 % 4 = 1)
        ∧ (i.engine = .dwt ↔ v.toNat / 16 % 4 = 2)

/-- A few of the words of 30_encoding.md R115, one per engine, through the decoder and through the table interface. -/
def Obligations.DecodesSampleWords : Prop :=
  decode 0x00000001#32 = .ok .embedLsb ∧ decode 0x00000012#32 = .ok .extractDct ∧ decode 0x00000023#32 = .ok .capacityDwt
    ∧ decodeTableWord 32 0x21 = some .embedDwt ∧ decodeTableWord 32 0x31 = none ∧ decodeTableWord 32 0x41 = none

/-- 44_validation.md R271, R277: the completion step of a legal command in flight is `exec` of the decoded command; on an
agenda that names the engine's turn, that turn is taken off first (the agenda is the model's own, log entry 2). -/
def Obligations.StepRunsDecodedCommand : Prop :=
  ∀ (s : State) (i : Instr), s.status.busy = true → decode s.cmdLast = .ok i →
    (s.agenda = [] → step s = exec i s)
      ∧ ∀ rest, s.agenda = .engine :: rest → step s = exec i { s with agenda := rest }

/-- 60_exceptions.md R301: a word in flight that is not one of the nine completes with code 3; no other check runs, nothing
but STATUS changes, and the word stays readable in CMD. -/
def Obligations.IllegalWordCompletesWithCodeThree : Prop :=
  ∀ s : State, s.status.busy = true → s.agenda = [] →
    ((s.cmdLast.toNat % 16 ≠ 1 ∧ s.cmdLast.toNat % 16 ≠ 2 ∧ s.cmdLast.toNat % 16 ≠ 3)
      ∨ s.cmdLast.toNat / 16 % 4 = 3 ∨ s.cmdLast.toNat / 64 ≠ 0
      ↔ s.cmdLast ∉ [0x01#32, 0x02#32, 0x03#32, 0x11#32, 0x12#32, 0x13#32, 0x21#32, 0x22#32, 0x23#32])
    ∧ (s.cmdLast ∉ [0x01#32, 0x02#32, 0x03#32, 0x11#32, 0x12#32, 0x13#32, 0x21#32, 0x22#32, 0x23#32] →
      ∃ t, step s = .next t ∧ t = { s with status := failedStatus s.status 3#4 } ∧ readRegister t .cmd = s.cmdLast)

/-- Nothing stops the block: every step, from every state, answers a next state. This is the model's deduction (log entry 7:
the Fault type is empty and a bus error is a next state), read from 70_reset_and_hazards.md R361 ("Every access completes"),
R360 and 60_exceptions.md R309. -/
def Obligations.EveryStepAnswersNext : Prop :=
  ∀ s : State, ∃ t, step s = .next t

/-! ## Host accesses -/

/-- 10_state.md R33 to R46: what a host read of each register offset returns, in every state, BUSY or not. -/
def Obligations.RegisterReads : Prop :=
  ∀ (s : State) (rest : List Turn) (addr data : Word),
    (addr, data) ∈ [(0x00#32, 0x53544701#32), (0x04#32, if s.ie then 1#32 else 0#32), (0x08#32, s.cmdLast),
      (0x0C#32, statusWord s.status), (0x10#32, BitVec.ofNat 32 s.width.toNat), (0x14#32, BitVec.ofNat 32 s.height.toNat),
      (0x18#32, s.payloadLen), (0x1C#32, s.resultLen), (0x20#32, s.bitcount), (0x24#32, s.capacity),
      (0x28#32, 0#32), (0x2C#32, 0#32), (0x30#32, 0#32), (0x34#32, 0#32), (0x38#32, 0#32), (0x3C#32, 0#32)] →
    s.agenda = .host (.read addr .word) :: rest →
    step s = .next { s with agenda := rest, response := some (.readData data) }

/-- 10_state.md R37: the bits of the STATUS word; reserved bits read 0. -/
def Obligations.StatusWordLayout : Prop :=
  ∀ (t : Status) (n : Nat),
    (statusWord t).getLsbD n =
      if n = 0 then t.busy else if n = 1 then t.done else if n = 2 then t.err else if n = 3 then t.haz
      else if n = 4 then t.term else if 8 ≤ n ∧ n < 12 then t.errcode.getLsbD (n - 8) else false

/-- 10_state.md R38: a host write to STATUS clears DONE, ERR with ERRCODE, and HAZ, bit by bit, in every state; it sets no
bit and changes nothing else. -/
def Obligations.StatusWriteClearsBits : Prop :=
  ∀ (s : State) (rest : List Turn) (v : Word), s.agenda = .host (.write 0x0C#32 .word v) :: rest →
    ∃ t, step s = .next t
      ∧ t = { s with agenda := rest, response := some .writeDone, status := t.status }
      ∧ t.status.busy = s.status.busy ∧ t.status.term = s.status.term
      ∧ t.status.done = (if v.toNat / 2 % 2 = 1 then false else s.status.done)
      ∧ t.status.err = (if v.toNat / 4 % 2 = 1 then false else s.status.err)
      ∧ t.status.errcode = (if v.toNat / 4 % 2 = 1 then 0#4 else s.status.errcode)
      ∧ t.status.haz = (if v.toNat / 8 % 2 = 1 then false else s.status.haz)

/-- 44_validation.md R270 with 10_state.md R35 and R36: a CMD write while BUSY = 0 is the issue step, whatever the word: it
latches the word, sets BUSY, clears DONE, ERR, ERRCODE and TERM (so irq is 0) and changes nothing else. -/
def Obligations.CommandWriteIssues : Prop :=
  ∀ (s : State) (rest : List Turn) (v : Word), s.status.busy = false →
    s.agenda = .host (.write 0x08#32 .word v) :: rest →
    ∃ t, step s = .next t
      ∧ t = { s with
          agenda := rest
          response := some .writeDone
          cmdLast := v
          status := { busy := true, done := false, err := false, errcode := 0#4, term := false, haz := s.status.haz } }
      ∧ t.irq = false

/-- 70_reset_and_hazards.md R350: the busy hazard. Every dropped write sets HAZ and stores nothing; CTRL and STATUS are
honoured; read-only and reserved registers ignore the write without HAZ. -/
def Obligations.BusyHazardDropsWrites : Prop :=
  ∀ (s : State) (rest : List Turn) (addr v : Word), s.status.busy = true →
    s.agenda = .host (.write addr .word v) :: rest →
    ((addr ∈ [0x08#32, 0x10#32, 0x14#32, 0x18#32]
        ∨ (addr.toNat % 4 = 0 ∧
          ((0x00100000 ≤ addr.toNat ∧ addr.toNat < 0x00100000 + s.params.payloadBytes)
            ∨ (0x00200000 ≤ addr.toNat ∧ addr.toNat < 0x00200000 + s.params.resultBytes)
            ∨ (0x01000000 ≤ addr.toNat ∧ addr.toNat < 0x01000000 + 4 * (s.params.maxW * s.params.maxH))
            ∨ (0x02000000 ≤ addr.toNat ∧ addr.toNat < 0x02000000 + 4 * (s.params.maxW * s.params.maxH))))) →
      step s = .next { s with agenda := rest, response := some .writeDone, status := { s.status with haz := true } })
    ∧ (addr ∈ [0x00#32, 0x1C#32, 0x20#32, 0x24#32, 0x28#32, 0x2C#32, 0x30#32, 0x34#32, 0x38#32, 0x3C#32] →
      step s = .next { s with agenda := rest, response := some .writeDone })
    ∧ (addr = 0x0C#32 →
      step s = .next { s with agenda := rest, response := some .writeDone, status := statusAck v s.status })
    ∧ (addr = 0x04#32 → v.toNat / 2 % 2 = 0 →
      step s = .next { s with agenda := rest, response := some .writeDone, ie := decide (v.toNat % 2 = 1) })
    ∧ (addr = 0x04#32 → v.toNat / 2 % 2 = 1 → ∃ t, step s = .next t ∧ t.status = Status.reset ∧ t.ie = false)

/-- 10_state.md R47, with R33 and R46: a host write to a read-only or reserved register is ignored and sets no flag, whether
or not BUSY is 1. -/
def Obligations.ReadOnlyRegistersIgnoreWrites : Prop :=
  ∀ (s : State) (rest : List Turn) (addr v : Word),
    addr ∈ [0x00#32, 0x1C#32, 0x20#32, 0x24#32, 0x28#32, 0x2C#32, 0x30#32, 0x34#32, 0x38#32, 0x3C#32] →
    s.agenda = .host (.write addr .word v) :: rest →
    step s = .next { s with agenda := rest, response := some .writeDone }

/-- 10_state.md R40, R41, R42: while BUSY = 0 a write to WIDTH or HEIGHT stores bits 15:0, one to PAYLOAD_LEN all 32 bits;
the reserved bits [31:16] are dropped, so a read returns them as 0. -/
def Obligations.OperandRegisterWrites : Prop :=
  ∀ (s : State) (rest : List Turn) (v : Word), s.status.busy = false →
    (s.agenda = .host (.write 0x10#32 .word v) :: rest →
      ∃ t, step s = .next t ∧ t = { s with agenda := rest, response := some .writeDone, width := t.width }
        ∧ t.width.toNat = v.toNat % 65536 ∧ (readRegister t .width).toNat = v.toNat % 65536)
    ∧ (s.agenda = .host (.write 0x14#32 .word v) :: rest →
      ∃ t, step s = .next t ∧ t = { s with agenda := rest, response := some .writeDone, height := t.height }
        ∧ t.height.toNat = v.toNat % 65536 ∧ (readRegister t .height).toNat = v.toNat % 65536)
    ∧ (s.agenda = .host (.write 0x18#32 .word v) :: rest →
      step s = .next { s with agenda := rest, response := some .writeDone, payloadLen := v })

/-- 60_exceptions.md R310 with 10_state.md R34, R48: a CTRL write without SRST sets IE to bit 0, and irq is then the level
IE & DONE: raised at once with IE when DONE = 1, lowered with IE. -/
def Obligations.InterruptEnableDrivesLevel : Prop :=
  ∀ (s : State) (rest : List Turn) (v : Word), v.toNat / 2 % 2 = 0 →
    s.agenda = .host (.write 0x04#32 .word v) :: rest →
    ∃ t, step s = .next t
      ∧ t = { s with agenda := rest, response := some .writeDone, ie := decide (v.toNat % 2 = 1) }
      ∧ t.irq = (decide (v.toNat % 2 = 1) && s.status.done)

/-- 20_memory.md R91 with R81, R83, R90: an access that is sub-word, misaligned or unmapped gets a bus error: the block's
state is unchanged, a read returns 0, no STATUS bit is set and irq stays. -/
def Obligations.BusErrorChangesNothing : Prop :=
  ∀ (s : State) (rest : List Turn) (addr v : Word) (size : AccessSize),
    (size ≠ .word ∨ addr.toNat % 4 ≠ 0 ∨
      (0x40 ≤ addr.toNat
        ∧ ¬ (0x00100000 ≤ addr.toNat ∧ addr.toNat < 0x00100000 + s.params.payloadBytes)
        ∧ ¬ (0x00200000 ≤ addr.toNat ∧ addr.toNat < 0x00200000 + s.params.resultBytes)
        ∧ ¬ (0x01000000 ≤ addr.toNat ∧ addr.toNat < 0x01000000 + 4 * (s.params.maxW * s.params.maxH))
        ∧ ¬ (0x02000000 ≤ addr.toNat ∧ addr.toNat < 0x02000000 + 4 * (s.params.maxW * s.params.maxH)))) →
    (s.agenda = .host (.read addr size) :: rest →
      ∃ t, step s = .next t ∧ t = { s with agenda := rest, response := some (.readBusError 0#32) } ∧ t.irq = s.irq)
    ∧ (s.agenda = .host (.write addr size v) :: rest →
      ∃ t, step s = .next t ∧ t = { s with agenda := rest, response := some .writeBusError } ∧ t.irq = s.irq)

/-- 20_memory.md R84: under the constraints of 00_scope.md R8 each region lies inside its window and no two regions of the
map, the register window included, overlap. -/
def Obligations.RegionsDoNotOverlap : Prop :=
  ∀ p : Params, p.wf = true →
    (p.size .payload ≤ 0x00100000 ∧ p.size .result ≤ 0x00100000 ∧ p.size .imgIn ≤ 0x01000000
      ∧ p.size .imgOut ≤ 0x01000000)
    ∧ ∀ a : Nat,
      (∀ sp sp', inRegion p sp a → inRegion p sp' a → sp = sp')
      ∧ (a < 0x40 → ∀ sp, ¬ inRegion p sp a)

/-- 20_memory.md R80: a word is its four bytes, the byte at the lowest offset the least significant. -/
def Obligations.WordsAreLittleEndian : Prop :=
  ∀ (s : State) (sp : Space) (a : Nat),
    (readWord s sp a).toNat =
      (readByte s sp a).toNat + 256 * (readByte s sp (a + 1)).toNat + 65536 * (readByte s sp (a + 2)).toNat
        + 16777216 * (readByte s sp (a + 3)).toNat

/-- 20_memory.md R93 with R80, R81, R88: while BUSY = 0 a host write of a mapped memory word stores its four bytes little-endian
at that offset of that memory, and changes no other byte and no register. -/
def Obligations.MemoryWordWriteStores : Prop :=
  ∀ (s : State) (rest : List Turn) (sp : Space) (offset : Nat) (addr v : Word),
    s.params.wf = true → s.status.busy = false → offset % 4 = 0 → offset < s.params.size sp →
    addr.toNat = regionBase sp + offset → s.agenda = .host (.write addr .word v) :: rest →
    ∃ t, step s = .next t
      ∧ readWord t sp offset = v
      ∧ (∀ sp' a, (sp' ≠ sp ∨ a < offset ∨ offset + 4 ≤ a) → readByte t sp' a = readByte s sp' a)
      ∧ { t with payload := s.payload, result := s.result, imgIn := s.imgIn, imgOut := s.imgOut }
        = { s with agenda := rest, response := some .writeDone }

/-- 20_memory.md R93, R96, R98: a host read of a mapped memory word returns the word and changes nothing of the block; only
IMG_OUT and RESULT while BUSY = 1 return some value that no rule fixes (a free value, so nothing is said of it; the counter of
draws is the model's own, log entry 6). -/
def Obligations.MemoryWordReads : Prop :=
  ∀ (s : State) (rest : List Turn) (sp : Space) (offset : Nat) (addr : Word),
    s.params.wf = true → offset % 4 = 0 → offset < s.params.size sp →
    addr.toNat = regionBase sp + offset → s.agenda = .host (.read addr .word) :: rest →
    ((s.status.busy = false ∨ sp = .payload ∨ sp = .imgIn) →
      step s = .next { s with agenda := rest, response := some (.readData (readWord s sp offset)) })
    ∧ ((s.status.busy = true ∧ (sp = .result ∨ sp = .imgOut)) →
      ∃ v, step s = .next { s with agenda := rest, response := some (.readData v), draws := s.draws + 1 })

/-! ## Reset -/

/-- 70_reset_and_hazards.md R341: the first read after power-on reset: STATUS and every other register but ID read 0, ID reads
its constant, and irq is 0. -/
def Obligations.FirstReadsAfterReset : Prop :=
  readRegister State.reset .id = 0x53544701#32
    ∧ (∀ r, r ∈ [Register.status, .cmd, .ctrl, .width, .height, .payloadLen, .resultLen, .bitcount, .capacity] →
      readRegister State.reset r = 0#32)
    ∧ State.reset.irq = false ∧ State.reset.status.busy = false

/-- 70_reset_and_hazards.md R342, block idle: every register takes its reset value whatever bit 0 of the written value is, and
every memory byte is kept. -/
def Obligations.SoftResetWhenIdle : Prop :=
  ∀ (s : State) (rest : List Turn) (v : Word), v.toNat / 2 % 2 = 1 → s.status.busy = false →
    s.agenda = .host (.write 0x04#32 .word v) :: rest →
    ∃ t, step s = .next t
      ∧ { t with payload := [], result := [], imgIn := [], imgOut := [] }
        = { State.reset with
            params := s.params, epoch := s.epoch, draws := s.draws, agenda := rest, response := some .writeDone }
      ∧ ∀ sp, SameBytes sp s t

/-- 70_reset_and_hazards.md R342, R343, command in flight: it is aborted; registers reset; PAYLOAD and IMG_IN are kept; of
IMG_OUT only the words an EMBED that passes its checks could write, and of RESULT only the bytes an EXTRACT that passes its
checks could write, may change. Nothing is said of the values left there (free values). Which checks "would fail" is the
model's reading (log entry 11). -/
def Obligations.SoftResetAbortsCommand : Prop :=
  ∀ (s : State) (rest : List Turn) (v : Word), v.toNat / 2 % 2 = 1 → s.status.busy = true →
    s.agenda = .host (.write 0x04#32 .word v) :: rest →
    ∃ t, step s = .next t
      ∧ { t with payload := [], result := [], imgIn := [], imgOut := [], draws := s.draws }
        = { State.reset with
            params := s.params, epoch := s.epoch, draws := s.draws, agenda := rest, response := some .writeDone }
      ∧ SameBytes .payload s t ∧ SameBytes .imgIn s t
      ∧ (∀ a, 4 * (s.width.toNat * s.height.toNat) ≤ a → readByte t .imgOut a = readByte s .imgOut a)
      ∧ (∀ a, s.width.toNat * s.height.toNat / 8 ≤ a → readByte t .result a = readByte s .result a)
      ∧ ((¬ ∃ i, decode s.cmdLast = .ok i ∧ i.op = .embed ∧ commandCheck i.op i.engine s = none) → SameBytes .imgOut s t)
      ∧ ((¬ ∃ i, decode s.cmdLast = .ok i ∧ i.op = .extract ∧ commandCheck i.op i.engine s = none) → SameBytes .result s t)

/-- 70_reset_and_hazards.md R340 with 10_state.md R54: power-on resets every register and leaves no written byte. The number
of the power-on, the agenda and the response are the model's own (log entries 4 and 12). -/
def Obligations.PowerOnResetsEverything : Prop :=
  ∀ (s : State) (rest : List Turn), s.agenda = .powerOn :: rest →
    step s = .next { State.reset with params := s.params, epoch := s.epoch + 1, draws := s.draws, agenda := rest }

/-! ## Invariants and whole-machine rules -/

/-- The reset state is sound: parameters, STATUS, memories. -/
def Obligations.ResetIsSound : Prop := State.reset.Sound

/-- 10_state.md R39: the invariants of STATUS hold at reset and every step keeps them, from every state that has them. -/
def Obligations.StatusInvariantsHold : Prop :=
  State.reset.status.Sound ∧ ∀ s t : State, s.status.Sound → step s = .next t → t.status.Sound

/-- Every step keeps a sound state sound. -/
def Obligations.StepKeepsSound : Prop :=
  ∀ s t : State, s.Sound → step s = .next t → t.Sound

/-- 10_state.md R51 over runs: from the issue to the completion, through any number of steps that leave BUSY = 1 throughout,
the inputs of the command are those it had at issue. -/
def Obligations.InputsFixedFromIssueToCompletion : Prop :=
  ∀ (n : Nat) (s t : State),
    (∀ k, k ≤ n → ∃ u, Host.Core.run Sys2Proof.core k s = .next u ∧ u.status.busy = true) →
    Host.Core.run Sys2Proof.core n s = .next t →
    t.cmdLast = s.cmdLast ∧ t.width = s.width ∧ t.height = s.height ∧ t.payloadLen = s.payloadLen
      ∧ SameBytes .payload s t ∧ SameBytes .imgIn s t

/-- 70_reset_and_hazards.md R352: HAZ is sticky: the only steps that clear it are a host write of 1 to STATUS bit 3 and a
reset; the issue step and the completion step leave it as it is; and the only step that sets it is a host write while
BUSY = 1 (one that was dropped). -/
def Obligations.HazardIsSticky : Prop :=
  (∀ s t : State, s.status.haz = true → step s = .next t → t.status.haz = false →
    (∃ v rest, s.agenda = .host (.write 0x0C#32 .word v) :: rest ∧ v.toNat / 8 % 2 = 1)
      ∨ (∃ v rest, s.agenda = .host (.write 0x04#32 .word v) :: rest ∧ v.toNat / 2 % 2 = 1)
      ∨ ∃ rest, s.agenda = .powerOn :: rest)
    ∧ (∀ (s : State) (rest : List Turn) (v : Word), s.status.busy = false →
      s.agenda = .host (.write 0x08#32 .word v) :: rest → ∃ t, step s = .next t ∧ t.status.haz = s.status.haz)
    ∧ (∀ s : State, s.status.busy = true → ∃ t, complete s = .next t ∧ t.status.haz = s.status.haz)
    ∧ ∀ s t : State, s.status.haz = false → step s = .next t → t.status.haz = true →
      s.status.busy = true ∧ ∃ addr v rest, s.agenda = .host (.write addr .word v) :: rest
        ∧ t = { s with agenda := rest, response := some .writeDone, status := { s.status with haz := true } }

/-- 60_exceptions.md R310, R312: only a completion step sets DONE, so no dropped write and no bus error raises irq. -/
def Obligations.OnlyCompletionSetsDone : Prop :=
  ∀ s t : State, s.status.done = false → step s = .next t → t.status.done = true →
    s.status.busy = true ∧ t.status.busy = false ∧ (s.agenda = [] ∨ ∃ rest, s.agenda = .engine :: rest)

/-- 70_reset_and_hazards.md R360 on a host that only polls: from a command in flight, after the host's remaining reads and one
turn of the engine, BUSY = 0 and DONE = 1. (That the engine moves when the agenda is empty is the model's choice, log
entry 2.) -/
def Obligations.PollingHostSeesCompletion : Prop :=
  ∀ s : State, s.status.busy = true → (∀ x ∈ s.agenda, ∃ addr size, x = .host (.read addr size)) →
    ∃ t, Host.Core.run Sys2Proof.core (s.agenda.length + 1) s = .next t ∧ t.status.busy = false ∧ t.status.done = true

/-! ## Checks and errors -/

/-- 60_exceptions.md R302: a legal command with an operand outside the parameters completes with ConfigError, on EMBED,
EXTRACT and CAPACITY alike, and one with its operands inside never reports code 4. -/
def Obligations.ConfigErrorExactly : Prop :=
  ∀ (i : Instr) (s : State),
    (¬ (s.GeometryInRange ∧ (i.op = .embed → s.PayloadInRange)) →
      exec i s = .next { s with status := failedStatus s.status 4#4 })
    ∧ (s.GeometryInRange ∧ (i.op = .embed → s.PayloadInRange) → s.status.errcode = 0#4 →
      ∃ t, exec i s = .next t ∧ t.status.errcode ≠ 4#4)

/-- 60_exceptions.md R303 with 42_dct.md R198 and 43_dwt.md R239: GeometryError is raised only by EMBED.DCT and EMBED.DWT, on
exactly the geometries their rules reject, and nothing but STATUS is then written. -/
def Obligations.GeometryErrorExactly : Prop :=
  ∀ (i : Instr) (s : State), s.status.errcode = 0#4 →
    ∃ t, exec i s = .next t
      ∧ (t.status.errcode = 1#4 ↔
        (s.GeometryInRange ∧ s.PayloadInRange)
          ∧ ((i = .embedDct ∧ (s.width.toNat % 8 ≠ 0 ∨ s.height.toNat % 8 ≠ 0))
            ∨ (i = .embedDwt ∧ ((¬ ∃ n, 1 ≤ n ∧ n ≤ 15 ∧ s.width.toNat = 2 ^ n)
              ∨ ¬ ∃ n, 1 ≤ n ∧ n ≤ 15 ∧ s.height.toNat = 2 ^ n))))
      ∧ (t.status.errcode = 1#4 → t = { s with status := failedStatus s.status 1#4 })

/-- 60_exceptions.md R304 with 44_validation.md R273: CapacityError is raised by an EMBED, past the CONFIG and geometry checks,
exactly when 8·(L+1) exceeds the capacity; no EXTRACT or CAPACITY raises it; nothing but STATUS is then written. -/
def Obligations.CapacityErrorExactly : Prop :=
  ∀ (i : Instr) (s : State), s.status.errcode = 0#4 →
    ∃ t, exec i s = .next t
      ∧ (t.status.errcode = 2#4 ↔
        s.GeometryInRange ∧ s.PayloadInRange
          ∧ ((i = .embedLsb ∧ s.width.toNat * s.height.toNat < 8 * (s.payloadLen.toNat + 1))
            ∨ (i = .embedDct ∧ s.width.toNat % 8 = 0 ∧ s.height.toNat % 8 = 0
              ∧ s.width.toNat * s.height.toNat / 64 < 8 * (s.payloadLen.toNat + 1))
            ∨ (i = .embedDwt ∧ (∃ n, 1 ≤ n ∧ s.width.toNat = 2 ^ n) ∧ (∃ n, 1 ≤ n ∧ s.height.toNat = 2 ^ n)
              ∧ s.width.toNat * s.height.toNat / 4 / 16 < 8 * (s.payloadLen.toNat + 1))))
      ∧ (t.status.errcode = 2#4 → t = { s with status := failedStatus s.status 2#4 })

/-- 60_exceptions.md R306: of several causes the first of IllegalCommand, ConfigError, GeometryError, CapacityError is the one
code reported, and 0 when there is none. -/
def Obligations.FirstErrorIsReported : Prop :=
  ∀ s : State, s.status.busy = true → s.status.errcode = 0#4 → s.agenda = [] →
    ∃ t, step s = .next t ∧
      t.status.errcode =
        match decode s.cmdLast with
        | .error _ => 3#4
        | .ok i =>
          if ¬ (s.GeometryInRange ∧ (i.op = .embed → s.PayloadInRange)) then 4#4
          else if i.op = .embed ∧ geometryOK i.engine s.width.toNat s.height.toNat = false then 1#4
          else if i.op = .embed ∧ cap i.engine s.width.toNat s.height.toNat < 8 * (s.payloadLen.toNat + 1) then 2#4
          else 0#4

/-- 60_exceptions.md R305, R307: a completion that ends in an error writes STATUS only: BUSY 0, DONE 1, ERR 1, ERRCODE one of
the four codes, TERM and HAZ as they were; every register and every memory is unchanged. The premise on ERR holds of every
command in flight (10_state.md R39). -/
def Obligations.FailureWritesStatusOnly : Prop :=
  ∀ s t : State, s.status.err = false → complete s = .next t → t.status.err = true →
    ∃ code : BitVec 4, 1 ≤ code.toNat ∧ code.toNat ≤ 4
      ∧ t = { s with status :=
          { busy := false, done := true, err := true, errcode := code, term := s.status.term, haz := s.status.haz } }

/-- 44_validation.md R274: capacity parity: where EMBED passes CONFIG and its geometry check, it reports CapacityError exactly
when 8·(L+1) exceeds the value CAPACITY of the same engine writes for the same geometry. -/
def Obligations.CapacityParity : Prop :=
  ∀ (e : Engine) (s : State), s.status.errcode = 0#4 → s.GeometryInRange → s.PayloadInRange →
    geometryOK e s.width.toNat s.height.toNat = true →
    ∃ t u, exec (instrOf .embed e) s = .next t ∧ exec (instrOf .capacity e) s = .next u
      ∧ (t.status.errcode = 2#4 ↔ u.capacity.toNat < 8 * (s.payloadLen.toNat + 1))

/-! ## The commands: result, completion, frame -/

/-- 41_lsb.md R174, 42_dct.md R202, 43_dwt.md R242 with R171, R199, R243: a CAPACITY command on a geometry in range completes,
writes the capacity exactly, and changes nothing else: no register, no memory byte. -/
def Obligations.CapacityCommandsComplete : Prop :=
  ∀ s : State, s.GeometryInRange →
    (∃ t, exec .capacityLsb s = .next t
      ∧ t = { s with capacity := t.capacity, status := succeededStatus s.status s.status.term }
      ∧ t.capacity.toNat = s.width.toNat * s.height.toNat)
    ∧ (∃ t, exec .capacityDct s = .next t
      ∧ t = { s with capacity := t.capacity, status := succeededStatus s.status s.status.term }
      ∧ t.capacity.toNat = s.width.toNat * s.height.toNat / 64)
    ∧ (∃ t, exec .capacityDwt s = .next t
      ∧ t = { s with capacity := t.capacity, status := succeededStatus s.status s.status.term }
      ∧ t.capacity.toNat = s.width.toNat * s.height.toNat / 4 / 16)

/-- 41_lsb.md R172, R176: EMBED.LSB on operands that pass its checks completes. Bit 0 of pixel word k below 8·(L+1) becomes bit
7 - k mod 8 of payload byte k div 8 (the terminator byte 0 after the last one); every other bit of every pixel word below W·H
is the carrier's; IMG_OUT beyond W·H words, every other memory, and every register but BITCOUNT and STATUS are unchanged. -/
def Obligations.EmbedLsbCompletes : Prop :=
  ∀ s : State, s.GeometryInRange → s.PayloadInRange →
    8 * (s.payloadLen.toNat + 1) ≤ s.width.toNat * s.height.toNat →
    ∃ t, exec .embedLsb s = .next t
      ∧ (∀ k j, k < s.width.toNat * s.height.toNat → j < 32 →
        (readWord t .imgOut (4 * k)).getLsbD j =
          if j = 0 ∧ k < 8 * (s.payloadLen.toNat + 1) then
            (if k / 8 < s.payloadLen.toNat then (readByte s .payload (k / 8)).getLsbD (7 - k % 8) else false)
          else (readWord s .imgIn (4 * k)).getLsbD j)
      ∧ (∀ a, 4 * (s.width.toNat * s.height.toNat) ≤ a → readByte t .imgOut a = readByte s .imgOut a)
      ∧ SameBytes .payload s t ∧ SameBytes .imgIn s t ∧ SameBytes .result s t
      ∧ t.bitcount.toNat = 8 * (s.payloadLen.toNat + 1)
      ∧ t.status = succeededStatus s.status s.status.term
      ∧ SameControl s t ∧ t.resultLen = s.resultLen ∧ t.capacity = s.capacity

/-- 41_lsb.md R173 with 40_codec.md R144: EXTRACT.LSB on a geometry in range completes: RESULT, RESULT_LEN, BITCOUNT and TERM
are those of the red-channel LSBs of pixel words 0 to W·H-1; RESULT bytes from RESULT_LEN on, every other memory, and every
other register are unchanged. -/
def Obligations.ExtractLsbCompletes : Prop :=
  ∀ s : State, s.GeometryInRange →
    ∃ t r, exec .extractLsb s = .next t
      ∧ r = extractStream
          ((List.range (s.width.toNat * s.height.toNat)).map fun k => (readWord s .imgIn (4 * k)).getLsbD 0)
      ∧ t.resultLen.toNat = r.out.length ∧ t.bitcount.toNat = r.cnt
      ∧ t.status = succeededStatus s.status r.term
      ∧ (∀ a, readByte t .result a = (r.out[a]?).getD (readByte s .result a))
      ∧ SameBytes .payload s t ∧ SameBytes .imgIn s t ∧ SameBytes .imgOut s t
      ∧ SameControl s t ∧ t.capacity = s.capacity

/-- 42_dct.md R200 with R192, R193, R203, R204: EMBED.DCT on operands that pass its checks completes. In every block b, sample
(i, j) of IMG_OUT is, for b below the length of the bit sequence, the gray pixel of the inverse transform of the block's
coefficients with [4][3] forced by bit b, and the carrier's pixel word otherwise; IMG_OUT beyond W·H words, every other memory,
and every register but BITCOUNT and STATUS are unchanged. -/
def Obligations.EmbedDctCompletes : Prop :=
  ∀ s : State, s.GeometryInRange → s.PayloadInRange →
    s.width.toNat % 8 = 0 → s.height.toNat % 8 = 0 →
    8 * (s.payloadLen.toNat + 1) ≤ s.width.toNat * s.height.toNat / 64 →
    ∃ t, exec .embedDct s = .next t
      ∧ (∀ bx bY i j, bx < s.width.toNat / 8 → bY < s.height.toNat / 8 → i < 8 → j < 8 →
        let at4 := fun (i j : Nat) => 4 * ((8 * bY + i) * s.width.toNat + (8 * bx + j))
        let f := gridTab 8 8 fun i j =>
          fSub (fOfNat ((readWord s .imgIn (at4 i j)).toNat % 256)) 0x4060000000000000#64
        let b := bY * (s.width.toNat / 8) + bx
        let bit := decide (b / 8 < s.payloadLen.toNat) && (readByte s .payload (b / 8)).getLsbD (7 - b % 8)
        let c := gridTab 8 8 fun u v =>
          if u = 4 ∧ v = 3 then forceSign (fdctAt f u v) bit 0x4039000000000000#64 else fdctAt f u v
        readWord t .imgOut (at4 i j) =
          if b < 8 * (s.payloadLen.toNat + 1) then gray (quantise (fAdd (idctAt c i j) 0x4060000000000000#64))
          else readWord s .imgIn (at4 i j))
      ∧ (∀ a, 4 * (s.width.toNat * s.height.toNat) ≤ a → readByte t .imgOut a = readByte s .imgOut a)
      ∧ SameBytes .payload s t ∧ SameBytes .imgIn s t ∧ SameBytes .result s t
      ∧ t.bitcount.toNat = 8 * (s.payloadLen.toNat + 1)
      ∧ t.status = succeededStatus s.status s.status.term
      ∧ SameControl s t ∧ t.resultLen = s.resultLen ∧ t.capacity = s.capacity

/-- 42_dct.md R201 with R194, R196, R205: EXTRACT.DCT on a geometry in range completes, whatever its remainder by 8: its stream
is the sign of FDCT(block)[4][3] of the whole blocks in block raster order. -/
def Obligations.ExtractDctCompletes : Prop :=
  ∀ s : State, s.GeometryInRange →
    ∃ t r, exec .extractDct s = .next t
      ∧ r = extractStream
          ((List.range (s.width.toNat / 8 * (s.height.toNat / 8))).map fun b =>
            readSign (gridAt (fdct (gridTab 8 8 fun i j =>
              fSub (fOfNat ((readWord s .imgIn
                (4 * ((8 * (b / (s.width.toNat / 8)) + i) * s.width.toNat + (8 * (b % (s.width.toNat / 8)) + j)))).toNat
                  % 256)) 0x4060000000000000#64)) 4 3))
      ∧ t.resultLen.toNat = r.out.length ∧ t.bitcount.toNat = r.cnt
      ∧ t.status = succeededStatus s.status r.term
      ∧ (∀ a, readByte t .result a = (r.out[a]?).getD (readByte s .result a))
      ∧ SameBytes .payload s t ∧ SameBytes .imgIn s t ∧ SameBytes .imgOut s t
      ∧ SameControl s t ∧ t.capacity = s.capacity

/-- 43_dwt.md R240 with R231 to R236, R247: EMBED.DWT on operands that pass its checks completes, and every pixel of IMG_OUT
below W·H is the gray pixel of the inverse Haar transform evaluated on its 2×2 group alone: the group's LL, LH, HH and HL, with
HL forced by its bit when its index is below the length of the bit sequence. IMG_OUT beyond W·H words, every other memory, and
every register but BITCOUNT and STATUS are unchanged. -/
def Obligations.EmbedDwtCompletes : Prop :=
  ∀ s : State, s.GeometryInRange → s.PayloadInRange →
    (∃ n, 1 ≤ n ∧ s.width.toNat = 2 ^ n) → (∃ n, 1 ≤ n ∧ s.height.toNat = 2 ^ n) →
    8 * (s.payloadLen.toNat + 1) ≤ s.width.toNat * s.height.toNat / 64 →
    ∃ t, exec .embedDwt s = .next t
      ∧ (∀ i j, i < s.height.toNat / 2 → j < s.width.toNat / 2 →
        let at4 := fun (y x : Nat) => 4 * (y * s.width.toNat + x)
        let g := fun (y x : Nat) => fOfNat ((readWord s .imgIn (at4 y x)).toNat % 256)
        let a := g (2 * i) (2 * j)
        let b := g (2 * i) (2 * j + 1)
        let c := g (2 * i + 1) (2 * j)
        let d := g (2 * i + 1) (2 * j + 1)
        let ll := haarSum (haarSum a b) (haarSum c d)
        let lh := haarDiff (haarSum a b) (haarSum c d)
        let hl := haarSum (haarDiff a b) (haarDiff c d)
        let hh := haarDiff (haarDiff a b) (haarDiff c d)
        let k := i * (s.width.toNat / 2) + j
        let bit := decide (k / 8 < s.payloadLen.toNat) && (readByte s .payload (k / 8)).getLsbD (7 - k % 8)
        let hl' := if k < 8 * (s.payloadLen.toNat + 1) then forceSign hl bit 0x4034000000000000#64 else hl
        readWord t .imgOut (at4 (2 * i) (2 * j)) = gray (quantise (haarSum (haarSum ll lh) (haarSum hl' hh)))
        ∧ readWord t .imgOut (at4 (2 * i) (2 * j + 1)) = gray (quantise (haarDiff (haarSum ll lh) (haarSum hl' hh)))
        ∧ readWord t .imgOut (at4 (2 * i + 1) (2 * j)) = gray (quantise (haarSum (haarDiff ll lh) (haarDiff hl' hh)))
        ∧ readWord t .imgOut (at4 (2 * i + 1) (2 * j + 1)) =
          gray (quantise (haarDiff (haarDiff ll lh) (haarDiff hl' hh))))
      ∧ (∀ a, 4 * (s.width.toNat * s.height.toNat) ≤ a → readByte t .imgOut a = readByte s .imgOut a)
      ∧ SameBytes .payload s t ∧ SameBytes .imgIn s t ∧ SameBytes .result s t
      ∧ t.bitcount.toNat = 8 * (s.payloadLen.toNat + 1)
      ∧ t.status = succeededStatus s.status s.status.term
      ∧ SameControl s t ∧ t.resultLen = s.resultLen ∧ t.capacity = s.capacity

/-- 43_dwt.md R241 with R236, R245, R246: EXTRACT.DWT on a geometry in range completes, odd and unit dimensions included: its
stream is the sign of each HL coefficient of the floor pairs in row-major order, each evaluated alone from its 2×2 group
(R241 (e)). -/
def Obligations.ExtractDwtCompletes : Prop :=
  ∀ s : State, s.GeometryInRange →
    ∃ t r, exec .extractDwt s = .next t
      ∧ r = extractStream
          ((List.range (s.height.toNat / 2 * (s.width.toNat / 2))).map fun k =>
            let g := fun (y x : Nat) => fOfNat ((readWord s .imgIn (4 * (y * s.width.toNat + x))).toNat % 256)
            let i := k / (s.width.toNat / 2)
            let j := k % (s.width.toNat / 2)
            readSign (fDiv (fAdd (fDiv (fSub (g (2 * i) (2 * j)) (g (2 * i) (2 * j + 1))) sqrt2)
              (fDiv (fSub (g (2 * i + 1) (2 * j)) (g (2 * i + 1) (2 * j + 1))) sqrt2)) sqrt2))
      ∧ t.resultLen.toNat = r.out.length ∧ t.bitcount.toNat = r.cnt
      ∧ t.status = succeededStatus s.status r.term
      ∧ (∀ a, readByte t .result a = (r.out[a]?).getD (readByte s .result a))
      ∧ SameBytes .payload s t ∧ SameBytes .imgIn s t ∧ SameBytes .imgOut s t
      ∧ SameControl s t ∧ t.capacity = s.capacity

/-- 20_memory.md R94 and 44_validation.md R281: no command changes a byte of IMG_IN or PAYLOAD; only an EMBED may change
IMG_OUT, and only below word W·H (R87); only an EXTRACT may change RESULT. -/
def Obligations.EngineWritesOutputsOnly : Prop :=
  ∀ (i : Instr) (s t : State), exec i s = .next t →
    SameBytes .payload s t ∧ SameBytes .imgIn s t
      ∧ (i.op ≠ .embed → SameBytes .imgOut s t) ∧ (i.op ≠ .extract → SameBytes .result s t)
      ∧ ∀ a, 4 * (s.width.toNat * s.height.toNat) ≤ a → readByte t .imgOut a = readByte s .imgOut a

/-- 44_validation.md R280 with R278, R87: a command is a function of its inputs: two states with the same parameters, W, H, L
and STATUS, the same payload bytes below L and the same carrier words below W·H, end with the same STATUS, write the same
CAPACITY and BITCOUNT or the same nothing, and the same bytes of IMG_OUT and RESULT, whatever else differs. -/
def Obligations.CommandDependsOnInputsOnly : Prop :=
  ∀ (i : Instr) (s u : State),
    s.params = u.params → s.width = u.width → s.height = u.height → s.payloadLen = u.payloadLen → s.status = u.status →
    (∀ a, a < s.payloadLen.toNat → readByte s .payload a = readByte u .payload a) →
    (∀ a, a < 4 * (s.width.toNat * s.height.toNat) → readByte s .imgIn a = readByte u .imgIn a) →
    ∃ t v, exec i s = .next t ∧ exec i u = .next v ∧ t.status = v.status
      ∧ ((t.capacity = v.capacity) ∨ (t.capacity = s.capacity ∧ v.capacity = u.capacity))
      ∧ ((t.bitcount = v.bitcount) ∨ (t.bitcount = s.bitcount ∧ v.bitcount = u.bitcount))
      ∧ ((t.resultLen = v.resultLen) ∨ (t.resultLen = s.resultLen ∧ v.resultLen = u.resultLen))
      ∧ (∀ sp a, readByte t sp a = readByte v sp a ∨
        (readByte t sp a = readByte s sp a ∧ readByte v sp a = readByte u sp a))

/-! ## The codec -/

/-- 40_codec.md R141: the length of a bit sequence is a multiple of 8, its last 8 bits are 0; 8 bits for the empty payload,
112 for one of 13 bytes. -/
def Obligations.TextBitsEndInTerminator : Prop :=
  (∀ by' : List Byte, (textToBits by').length = 8 * (by'.length + 1)
    ∧ (textToBits by').drop (8 * by'.length) = List.replicate 8 false)
  ∧ textToBits [] = List.replicate 8 false
  ∧ ∀ by' : List Byte, by'.length = 13 → (textToBits by').length = 112

/-- 00_scope.md R12 with 40_codec.md R140: the sequence has 8·(L+1) bits, and bit k of it is bit 7 - k mod 8 of byte k div 8 of
the payload with its terminator. -/
def Obligations.TextBitsAreMsbFirst : Prop :=
  ∀ by' : List Byte, (textToBits by').length = 8 * (by'.length + 1) ∧ ∀ k, k < 8 * (by'.length + 1) →
    (textToBits by')[k]? = some (((by' ++ [0x00#8]).getD (k / 8) 0#8).getLsbD (7 - k % 8))

/-- 40_codec.md R145: ExtractStream agrees with BitsToText on every stream, and its count is 8·(len+1) at a terminator and the
whole stream otherwise. -/
def Obligations.ExtractAgreesWithBitsToText : Prop :=
  ∀ c : List Bool,
    (extractStream c).out = bitsToText c
      ∧ ((extractStream c).term = true → (extractStream c).cnt = 8 * ((extractStream c).out.length + 1))
      ∧ ((extractStream c).term = false → (extractStream c).cnt = c.length)

/-- 40_codec.md R146: the codec round trip is exact up to the first zero byte, whatever bits follow the sequence. -/
def Obligations.CodecRoundTrip : Prop :=
  ∀ (by' : List Byte) (rest : List Bool),
    bitsToText (textToBits by') = by'.takeWhile (· != 0#8)
      ∧ (extractStream (textToBits by' ++ rest)).out = by'.takeWhile (· != 0#8)
      ∧ (extractStream (textToBits by' ++ rest)).term = true

/-- 41_lsb.md R177: the LSB round trip: after a successful EMBED.LSB and a copy of IMG_OUT words 0..W·H-1 into IMG_IN,
EXTRACT.LSB with the same W and H returns the payload up to its first 0x00 byte, with TERM = 1 and BITCOUNT = 8·(k+1). -/
def Obligations.LsbRoundTrip : Prop :=
  ∀ s t u : State, s.status.err = false → exec .embedLsb s = .next t → t.status.err = false →
    u.params = t.params → u.width = t.width → u.height = t.height →
    (∀ k, k < t.width.toNat * t.height.toNat → readWord u .imgIn (4 * k) = readWord t .imgOut (4 * k)) →
    ∃ v, exec .extractLsb u = .next v ∧
      let text := ((List.range s.payloadLen.toNat).map (readByte s .payload)).takeWhile (· != 0#8)
      v.status.term = true ∧ v.resultLen.toNat = text.length ∧ v.bitcount.toNat = 8 * (text.length + 1)
        ∧ ∀ k (h : k < text.length), readByte v .result k = text[k]

/-! ## Arithmetic -/

/-- 00_scope.md R14, where the result is finite: `+` and `-` round to nearest, ties to even: no
finite value is nearer to the exact sum than the result, and of two equally near values the result is the even one. Values are
exact integers in units of 2^-1074. -/
def Obligations.AddRoundsToNearestEven : Prop :=
  ∀ a b : F64, fFinite a = true → fFinite b = true →
    (fFinite (fAdd a b) = true → ∀ c, fFinite c = true →
      |fUnits (fAdd a b) - (fUnits a + fUnits b)| ≤ |fUnits c - (fUnits a + fUnits b)|
        ∧ (|fUnits (fAdd a b) - (fUnits a + fUnits b)| = |fUnits c - (fUnits a + fUnits b)| →
          fUnits c ≠ fUnits (fAdd a b) → (fAdd a b).toNat % 2 = 0))
    ∧ (fFinite (fSub a b) = true → ∀ c, fFinite c = true →
      |fUnits (fSub a b) - (fUnits a - fUnits b)| ≤ |fUnits c - (fUnits a - fUnits b)|
        ∧ (|fUnits (fSub a b) - (fUnits a - fUnits b)| = |fUnits c - (fUnits a - fUnits b)| →
          fUnits c ≠ fUnits (fSub a b) → (fSub a b).toNat % 2 = 0))

/-- 00_scope.md R14, where the result is finite: `*` rounds to nearest, ties to even. -/
def Obligations.MulRoundsToNearestEven : Prop :=
  ∀ a b : F64, fFinite a = true → fFinite b = true → fFinite (fMul a b) = true → ∀ c, fFinite c = true →
    |fUnits (fMul a b) * 2 ^ 1074 - fUnits a * fUnits b| ≤ |fUnits c * 2 ^ 1074 - fUnits a * fUnits b|
      ∧ (|fUnits (fMul a b) * 2 ^ 1074 - fUnits a * fUnits b| = |fUnits c * 2 ^ 1074 - fUnits a * fUnits b| →
        fUnits c ≠ fUnits (fMul a b) → (fMul a b).toNat % 2 = 0)

/-- 00_scope.md R14, where the divisor is not zero and the result is finite: `/` rounds to nearest, ties to
even: distances are compared after multiplying by the divisor. -/
def Obligations.DivRoundsToNearestEven : Prop :=
  ∀ a b : F64, fFinite a = true → fFinite b = true → fUnits b ≠ 0 → fFinite (fDiv a b) = true →
    ∀ c, fFinite c = true →
    |fUnits (fDiv a b) * fUnits b - fUnits a * 2 ^ 1074| ≤ |fUnits c * fUnits b - fUnits a * 2 ^ 1074|
      ∧ (|fUnits (fDiv a b) * fUnits b - fUnits a * 2 ^ 1074| = |fUnits c * fUnits b - fUnits a * 2 ^ 1074| →
        fUnits c ≠ fUnits (fDiv a b) → (fDiv a b).toNat % 2 = 0)

/-- 00_scope.md R14, 42_dct.md R197: the integers 0 to 255 and their differences from 128 are exact. -/
def Obligations.IntensitiesAreExact : Prop :=
  ∀ n : Nat, n < 256 →
    fUnits (fOfNat n) = (n : Int) * 2 ^ 1074
      ∧ fUnits (fSub (fOfNat n) 0x4060000000000000#64) = ((n : Int) - 128) * 2 ^ 1074
      ∧ fFinite (fOfNat n) = true ∧ fFinite (fSub (fOfNat n) 0x4060000000000000#64) = true

/-- 40_codec.md R150: Q clamps to [0, 255] and rounds the exact value to nearest, ties away from zero; in units of 2^-1074. -/
def Obligations.QuantiserRoundsHalfUp : Prop :=
  ∀ x : F64, fFinite x = true →
    (quantise x : Int) =
      if fUnits x ≤ 0 then 0
      else if 255 * 2 ^ 1074 ≤ fUnits x then 255
      else (2 * fUnits x + 2 ^ 1074) / 2 ^ 1075

/-- 40_codec.md R152: for every finite c and K of 20.0 or 25.0, |ForceSign(c, bit, K)| ≥ K, strictly positive for a 1 bit and
strictly negative for a 0 bit. -/
def Obligations.ForceSignEnforcesMagnitude : Prop :=
  ∀ (c k : F64) (bit : Bool), fFinite c = true → (k = 0x4034000000000000#64 ∨ k = 0x4039000000000000#64) →
    fLe k (fAbs (forceSign c bit k)) = true
      ∧ (bit = true → fLt fZero (forceSign c bit k) = true)
      ∧ (bit = false → fLt (forceSign c bit k) fZero = true)

/-- 40_codec.md R153: ReadSign of a finite value is 1 exactly when the value is above zero; both zeros read 0. -/
def Obligations.ReadSignIsStrictlyPositive : Prop :=
  (∀ c : F64, fFinite c = true → (readSign c = true ↔ 0 < fUnits c))
    ∧ readSign 0x0000000000000000#64 = false ∧ readSign 0x8000000000000000#64 = false

/-- 40_codec.md R148, R149 with 20_memory.md R85: a gray pixel has R = G = B = v and A = 255, and its intensity is v. -/
def Obligations.GrayPixelLayout : Prop :=
  ∀ v : Nat, v < 256 →
    (gray v).toNat = 0xFF000000 + v * 65536 + v * 256 + v ∧ intensity (gray v) = v

/-- 42_dct.md R199, 43_dwt.md R243: the DCT and DWT capacities are equal for every geometry, and equal the number of blocks
where the DCT geometry check holds. -/
def Obligations.TransformCapacitiesAgree : Prop :=
  ∀ w h : Nat, cap .dwt w h = cap .dct w h ∧ (w % 8 = 0 → h % 8 = 0 → cap .dct w h = w / 8 * (h / 8))
end

