-- ==== Sys2Proof/Laws/State.lean ====
section
/-! SUPPORT. One lemma per field per update of the state: what each named operation of Ops, Flags and Bus leaves in each
field, so that no proof unfolds a record update. -/

namespace Sys2Proof.Machine

open Sys2Proof

@[simp] theorem State.issue_params (s : State) (v : Word) : (s.issue v).params = s.params := rfl
@[simp] theorem State.issue_ie (s : State) (v : Word) : (s.issue v).ie = s.ie := rfl
@[simp] theorem State.issue_cmdLast (s : State) (v : Word) : (s.issue v).cmdLast = v := rfl
@[simp] theorem State.issue_status (s : State) (v : Word) : (s.issue v).status = statusIssue s.status := rfl
@[simp] theorem State.issue_width (s : State) (v : Word) : (s.issue v).width = s.width := rfl
@[simp] theorem State.issue_height (s : State) (v : Word) : (s.issue v).height = s.height := rfl
@[simp] theorem State.issue_payloadLen (s : State) (v : Word) : (s.issue v).payloadLen = s.payloadLen := rfl
@[simp] theorem State.issue_resultLen (s : State) (v : Word) : (s.issue v).resultLen = s.resultLen := rfl
@[simp] theorem State.issue_bitcount (s : State) (v : Word) : (s.issue v).bitcount = s.bitcount := rfl
@[simp] theorem State.issue_capacity (s : State) (v : Word) : (s.issue v).capacity = s.capacity := rfl
@[simp] theorem State.issue_payload (s : State) (v : Word) : (s.issue v).payload = s.payload := rfl
@[simp] theorem State.issue_result (s : State) (v : Word) : (s.issue v).result = s.result := rfl
@[simp] theorem State.issue_imgIn (s : State) (v : Word) : (s.issue v).imgIn = s.imgIn := rfl
@[simp] theorem State.issue_imgOut (s : State) (v : Word) : (s.issue v).imgOut = s.imgOut := rfl
@[simp] theorem State.issue_epoch (s : State) (v : Word) : (s.issue v).epoch = s.epoch := rfl
@[simp] theorem State.issue_draws (s : State) (v : Word) : (s.issue v).draws = s.draws := rfl
@[simp] theorem State.issue_agenda (s : State) (v : Word) : (s.issue v).agenda = s.agenda := rfl
@[simp] theorem State.issue_response (s : State) (v : Word) : (s.issue v).response = s.response := rfl

@[simp] theorem State.succeed_params (s : State) : (s.succeed).params = s.params := rfl
@[simp] theorem State.succeed_ie (s : State) : (s.succeed).ie = s.ie := rfl
@[simp] theorem State.succeed_cmdLast (s : State) : (s.succeed).cmdLast = s.cmdLast := rfl
@[simp] theorem State.succeed_status (s : State) : (s.succeed).status = statusSucceed s.status := rfl
@[simp] theorem State.succeed_width (s : State) : (s.succeed).width = s.width := rfl
@[simp] theorem State.succeed_height (s : State) : (s.succeed).height = s.height := rfl
@[simp] theorem State.succeed_payloadLen (s : State) : (s.succeed).payloadLen = s.payloadLen := rfl
@[simp] theorem State.succeed_resultLen (s : State) : (s.succeed).resultLen = s.resultLen := rfl
@[simp] theorem State.succeed_bitcount (s : State) : (s.succeed).bitcount = s.bitcount := rfl
@[simp] theorem State.succeed_capacity (s : State) : (s.succeed).capacity = s.capacity := rfl
@[simp] theorem State.succeed_payload (s : State) : (s.succeed).payload = s.payload := rfl
@[simp] theorem State.succeed_result (s : State) : (s.succeed).result = s.result := rfl
@[simp] theorem State.succeed_imgIn (s : State) : (s.succeed).imgIn = s.imgIn := rfl
@[simp] theorem State.succeed_imgOut (s : State) : (s.succeed).imgOut = s.imgOut := rfl
@[simp] theorem State.succeed_epoch (s : State) : (s.succeed).epoch = s.epoch := rfl
@[simp] theorem State.succeed_draws (s : State) : (s.succeed).draws = s.draws := rfl
@[simp] theorem State.succeed_agenda (s : State) : (s.succeed).agenda = s.agenda := rfl
@[simp] theorem State.succeed_response (s : State) : (s.succeed).response = s.response := rfl

@[simp] theorem State.fail_params (s : State) (e : CmdError) : (s.fail e).params = s.params := rfl
@[simp] theorem State.fail_ie (s : State) (e : CmdError) : (s.fail e).ie = s.ie := rfl
@[simp] theorem State.fail_cmdLast (s : State) (e : CmdError) : (s.fail e).cmdLast = s.cmdLast := rfl
@[simp] theorem State.fail_status (s : State) (e : CmdError) : (s.fail e).status = statusFail e s.status := rfl
@[simp] theorem State.fail_width (s : State) (e : CmdError) : (s.fail e).width = s.width := rfl
@[simp] theorem State.fail_height (s : State) (e : CmdError) : (s.fail e).height = s.height := rfl
@[simp] theorem State.fail_payloadLen (s : State) (e : CmdError) : (s.fail e).payloadLen = s.payloadLen := rfl
@[simp] theorem State.fail_resultLen (s : State) (e : CmdError) : (s.fail e).resultLen = s.resultLen := rfl
@[simp] theorem State.fail_bitcount (s : State) (e : CmdError) : (s.fail e).bitcount = s.bitcount := rfl
@[simp] theorem State.fail_capacity (s : State) (e : CmdError) : (s.fail e).capacity = s.capacity := rfl
@[simp] theorem State.fail_payload (s : State) (e : CmdError) : (s.fail e).payload = s.payload := rfl
@[simp] theorem State.fail_result (s : State) (e : CmdError) : (s.fail e).result = s.result := rfl
@[simp] theorem State.fail_imgIn (s : State) (e : CmdError) : (s.fail e).imgIn = s.imgIn := rfl
@[simp] theorem State.fail_imgOut (s : State) (e : CmdError) : (s.fail e).imgOut = s.imgOut := rfl
@[simp] theorem State.fail_epoch (s : State) (e : CmdError) : (s.fail e).epoch = s.epoch := rfl
@[simp] theorem State.fail_draws (s : State) (e : CmdError) : (s.fail e).draws = s.draws := rfl
@[simp] theorem State.fail_agenda (s : State) (e : CmdError) : (s.fail e).agenda = s.agenda := rfl
@[simp] theorem State.fail_response (s : State) (e : CmdError) : (s.fail e).response = s.response := rfl

@[simp] theorem State.acknowledge_params (s : State) (v : Word) : (s.acknowledge v).params = s.params := rfl
@[simp] theorem State.acknowledge_ie (s : State) (v : Word) : (s.acknowledge v).ie = s.ie := rfl
@[simp] theorem State.acknowledge_cmdLast (s : State) (v : Word) : (s.acknowledge v).cmdLast = s.cmdLast := rfl
@[simp] theorem State.acknowledge_status (s : State) (v : Word) : (s.acknowledge v).status = statusAck v s.status := rfl
@[simp] theorem State.acknowledge_width (s : State) (v : Word) : (s.acknowledge v).width = s.width := rfl
@[simp] theorem State.acknowledge_height (s : State) (v : Word) : (s.acknowledge v).height = s.height := rfl
@[simp] theorem State.acknowledge_payloadLen (s : State) (v : Word) : (s.acknowledge v).payloadLen = s.payloadLen := rfl
@[simp] theorem State.acknowledge_resultLen (s : State) (v : Word) : (s.acknowledge v).resultLen = s.resultLen := rfl
@[simp] theorem State.acknowledge_bitcount (s : State) (v : Word) : (s.acknowledge v).bitcount = s.bitcount := rfl
@[simp] theorem State.acknowledge_capacity (s : State) (v : Word) : (s.acknowledge v).capacity = s.capacity := rfl
@[simp] theorem State.acknowledge_payload (s : State) (v : Word) : (s.acknowledge v).payload = s.payload := rfl
@[simp] theorem State.acknowledge_result (s : State) (v : Word) : (s.acknowledge v).result = s.result := rfl
@[simp] theorem State.acknowledge_imgIn (s : State) (v : Word) : (s.acknowledge v).imgIn = s.imgIn := rfl
@[simp] theorem State.acknowledge_imgOut (s : State) (v : Word) : (s.acknowledge v).imgOut = s.imgOut := rfl
@[simp] theorem State.acknowledge_epoch (s : State) (v : Word) : (s.acknowledge v).epoch = s.epoch := rfl
@[simp] theorem State.acknowledge_draws (s : State) (v : Word) : (s.acknowledge v).draws = s.draws := rfl
@[simp] theorem State.acknowledge_agenda (s : State) (v : Word) : (s.acknowledge v).agenda = s.agenda := rfl
@[simp] theorem State.acknowledge_response (s : State) (v : Word) : (s.acknowledge v).response = s.response := rfl

@[simp] theorem State.dropWrite_params (s : State) : (s.dropWrite).params = s.params := rfl
@[simp] theorem State.dropWrite_ie (s : State) : (s.dropWrite).ie = s.ie := rfl
@[simp] theorem State.dropWrite_cmdLast (s : State) : (s.dropWrite).cmdLast = s.cmdLast := rfl
@[simp] theorem State.dropWrite_status (s : State) : (s.dropWrite).status = statusHazard s.status := rfl
@[simp] theorem State.dropWrite_width (s : State) : (s.dropWrite).width = s.width := rfl
@[simp] theorem State.dropWrite_height (s : State) : (s.dropWrite).height = s.height := rfl
@[simp] theorem State.dropWrite_payloadLen (s : State) : (s.dropWrite).payloadLen = s.payloadLen := rfl
@[simp] theorem State.dropWrite_resultLen (s : State) : (s.dropWrite).resultLen = s.resultLen := rfl
@[simp] theorem State.dropWrite_bitcount (s : State) : (s.dropWrite).bitcount = s.bitcount := rfl
@[simp] theorem State.dropWrite_capacity (s : State) : (s.dropWrite).capacity = s.capacity := rfl
@[simp] theorem State.dropWrite_payload (s : State) : (s.dropWrite).payload = s.payload := rfl
@[simp] theorem State.dropWrite_result (s : State) : (s.dropWrite).result = s.result := rfl
@[simp] theorem State.dropWrite_imgIn (s : State) : (s.dropWrite).imgIn = s.imgIn := rfl
@[simp] theorem State.dropWrite_imgOut (s : State) : (s.dropWrite).imgOut = s.imgOut := rfl
@[simp] theorem State.dropWrite_epoch (s : State) : (s.dropWrite).epoch = s.epoch := rfl
@[simp] theorem State.dropWrite_draws (s : State) : (s.dropWrite).draws = s.draws := rfl
@[simp] theorem State.dropWrite_agenda (s : State) : (s.dropWrite).agenda = s.agenda := rfl
@[simp] theorem State.dropWrite_response (s : State) : (s.dropWrite).response = s.response := rfl

@[simp] theorem State.storeImage_params (s : State) (ws : List Word) : (s.storeImage ws).params = s.params := rfl
@[simp] theorem State.storeImage_ie (s : State) (ws : List Word) : (s.storeImage ws).ie = s.ie := rfl
@[simp] theorem State.storeImage_cmdLast (s : State) (ws : List Word) : (s.storeImage ws).cmdLast = s.cmdLast := rfl
@[simp] theorem State.storeImage_status (s : State) (ws : List Word) : (s.storeImage ws).status = s.status := rfl
@[simp] theorem State.storeImage_width (s : State) (ws : List Word) : (s.storeImage ws).width = s.width := rfl
@[simp] theorem State.storeImage_height (s : State) (ws : List Word) : (s.storeImage ws).height = s.height := rfl
@[simp] theorem State.storeImage_payloadLen (s : State) (ws : List Word) : (s.storeImage ws).payloadLen = s.payloadLen := rfl
@[simp] theorem State.storeImage_resultLen (s : State) (ws : List Word) : (s.storeImage ws).resultLen = s.resultLen := rfl
@[simp] theorem State.storeImage_bitcount (s : State) (ws : List Word) : (s.storeImage ws).bitcount = s.bitcount := rfl
@[simp] theorem State.storeImage_capacity (s : State) (ws : List Word) : (s.storeImage ws).capacity = s.capacity := rfl
@[simp] theorem State.storeImage_payload (s : State) (ws : List Word) : (s.storeImage ws).payload = s.payload := rfl
@[simp] theorem State.storeImage_result (s : State) (ws : List Word) : (s.storeImage ws).result = s.result := rfl
@[simp] theorem State.storeImage_imgIn (s : State) (ws : List Word) : (s.storeImage ws).imgIn = s.imgIn := rfl
@[simp] theorem State.storeImage_imgOut (s : State) (ws : List Word) : (s.storeImage ws).imgOut = storeWords s.imgOut 0 ws := rfl
@[simp] theorem State.storeImage_epoch (s : State) (ws : List Word) : (s.storeImage ws).epoch = s.epoch := rfl
@[simp] theorem State.storeImage_draws (s : State) (ws : List Word) : (s.storeImage ws).draws = s.draws := rfl
@[simp] theorem State.storeImage_agenda (s : State) (ws : List Word) : (s.storeImage ws).agenda = s.agenda := rfl
@[simp] theorem State.storeImage_response (s : State) (ws : List Word) : (s.storeImage ws).response = s.response := rfl

@[simp] theorem State.storeResult_params (s : State) (bs : List Byte) : (s.storeResult bs).params = s.params := rfl
@[simp] theorem State.storeResult_ie (s : State) (bs : List Byte) : (s.storeResult bs).ie = s.ie := rfl
@[simp] theorem State.storeResult_cmdLast (s : State) (bs : List Byte) : (s.storeResult bs).cmdLast = s.cmdLast := rfl
@[simp] theorem State.storeResult_status (s : State) (bs : List Byte) : (s.storeResult bs).status = s.status := rfl
@[simp] theorem State.storeResult_width (s : State) (bs : List Byte) : (s.storeResult bs).width = s.width := rfl
@[simp] theorem State.storeResult_height (s : State) (bs : List Byte) : (s.storeResult bs).height = s.height := rfl
@[simp] theorem State.storeResult_payloadLen (s : State) (bs : List Byte) : (s.storeResult bs).payloadLen = s.payloadLen := rfl
@[simp] theorem State.storeResult_resultLen (s : State) (bs : List Byte) : (s.storeResult bs).resultLen = s.resultLen := rfl
@[simp] theorem State.storeResult_bitcount (s : State) (bs : List Byte) : (s.storeResult bs).bitcount = s.bitcount := rfl
@[simp] theorem State.storeResult_capacity (s : State) (bs : List Byte) : (s.storeResult bs).capacity = s.capacity := rfl
@[simp] theorem State.storeResult_payload (s : State) (bs : List Byte) : (s.storeResult bs).payload = s.payload := rfl
@[simp] theorem State.storeResult_result (s : State) (bs : List Byte) : (s.storeResult bs).result = storeBytes s.result 0 bs := rfl
@[simp] theorem State.storeResult_imgIn (s : State) (bs : List Byte) : (s.storeResult bs).imgIn = s.imgIn := rfl
@[simp] theorem State.storeResult_imgOut (s : State) (bs : List Byte) : (s.storeResult bs).imgOut = s.imgOut := rfl
@[simp] theorem State.storeResult_epoch (s : State) (bs : List Byte) : (s.storeResult bs).epoch = s.epoch := rfl
@[simp] theorem State.storeResult_draws (s : State) (bs : List Byte) : (s.storeResult bs).draws = s.draws := rfl
@[simp] theorem State.storeResult_agenda (s : State) (bs : List Byte) : (s.storeResult bs).agenda = s.agenda := rfl
@[simp] theorem State.storeResult_response (s : State) (bs : List Byte) : (s.storeResult bs).response = s.response := rfl

@[simp] theorem State.respond_params (s : State) (r : BusResponse) : (s.respond r).params = s.params := rfl
@[simp] theorem State.respond_ie (s : State) (r : BusResponse) : (s.respond r).ie = s.ie := rfl
@[simp] theorem State.respond_cmdLast (s : State) (r : BusResponse) : (s.respond r).cmdLast = s.cmdLast := rfl
@[simp] theorem State.respond_status (s : State) (r : BusResponse) : (s.respond r).status = s.status := rfl
@[simp] theorem State.respond_width (s : State) (r : BusResponse) : (s.respond r).width = s.width := rfl
@[simp] theorem State.respond_height (s : State) (r : BusResponse) : (s.respond r).height = s.height := rfl
@[simp] theorem State.respond_payloadLen (s : State) (r : BusResponse) : (s.respond r).payloadLen = s.payloadLen := rfl
@[simp] theorem State.respond_resultLen (s : State) (r : BusResponse) : (s.respond r).resultLen = s.resultLen := rfl
@[simp] theorem State.respond_bitcount (s : State) (r : BusResponse) : (s.respond r).bitcount = s.bitcount := rfl
@[simp] theorem State.respond_capacity (s : State) (r : BusResponse) : (s.respond r).capacity = s.capacity := rfl
@[simp] theorem State.respond_payload (s : State) (r : BusResponse) : (s.respond r).payload = s.payload := rfl
@[simp] theorem State.respond_result (s : State) (r : BusResponse) : (s.respond r).result = s.result := rfl
@[simp] theorem State.respond_imgIn (s : State) (r : BusResponse) : (s.respond r).imgIn = s.imgIn := rfl
@[simp] theorem State.respond_imgOut (s : State) (r : BusResponse) : (s.respond r).imgOut = s.imgOut := rfl
@[simp] theorem State.respond_epoch (s : State) (r : BusResponse) : (s.respond r).epoch = s.epoch := rfl
@[simp] theorem State.respond_draws (s : State) (r : BusResponse) : (s.respond r).draws = s.draws := rfl
@[simp] theorem State.respond_agenda (s : State) (r : BusResponse) : (s.respond r).agenda = s.agenda := rfl
@[simp] theorem State.respond_response (s : State) (r : BusResponse) : (s.respond r).response = some r := rfl

@[simp] theorem State.resetRegisters_params (s : State) : (s.resetRegisters).params = s.params := rfl
@[simp] theorem State.resetRegisters_ie (s : State) : (s.resetRegisters).ie = false := rfl
@[simp] theorem State.resetRegisters_cmdLast (s : State) : (s.resetRegisters).cmdLast = 0#32 := rfl
@[simp] theorem State.resetRegisters_status (s : State) : (s.resetRegisters).status = Status.reset := rfl
@[simp] theorem State.resetRegisters_width (s : State) : (s.resetRegisters).width = 0#16 := rfl
@[simp] theorem State.resetRegisters_height (s : State) : (s.resetRegisters).height = 0#16 := rfl
@[simp] theorem State.resetRegisters_payloadLen (s : State) : (s.resetRegisters).payloadLen = 0#32 := rfl
@[simp] theorem State.resetRegisters_resultLen (s : State) : (s.resetRegisters).resultLen = 0#32 := rfl
@[simp] theorem State.resetRegisters_bitcount (s : State) : (s.resetRegisters).bitcount = 0#32 := rfl
@[simp] theorem State.resetRegisters_capacity (s : State) : (s.resetRegisters).capacity = 0#32 := rfl
@[simp] theorem State.resetRegisters_payload (s : State) : (s.resetRegisters).payload = s.payload := rfl
@[simp] theorem State.resetRegisters_result (s : State) : (s.resetRegisters).result = s.result := rfl
@[simp] theorem State.resetRegisters_imgIn (s : State) : (s.resetRegisters).imgIn = s.imgIn := rfl
@[simp] theorem State.resetRegisters_imgOut (s : State) : (s.resetRegisters).imgOut = s.imgOut := rfl
@[simp] theorem State.resetRegisters_epoch (s : State) : (s.resetRegisters).epoch = s.epoch := rfl
@[simp] theorem State.resetRegisters_draws (s : State) : (s.resetRegisters).draws = s.draws := rfl
@[simp] theorem State.resetRegisters_agenda (s : State) : (s.resetRegisters).agenda = s.agenda := rfl
@[simp] theorem State.resetRegisters_response (s : State) : (s.resetRegisters).response = s.response := rfl

@[simp] theorem State.setMem_params (s : State) (sp : Space) (m : Memory) : (s.setMem sp m).params = s.params := by cases sp <;> rfl
@[simp] theorem State.setMem_ie (s : State) (sp : Space) (m : Memory) : (s.setMem sp m).ie = s.ie := by cases sp <;> rfl
@[simp] theorem State.setMem_cmdLast (s : State) (sp : Space) (m : Memory) : (s.setMem sp m).cmdLast = s.cmdLast := by cases sp <;> rfl
@[simp] theorem State.setMem_status (s : State) (sp : Space) (m : Memory) : (s.setMem sp m).status = s.status := by cases sp <;> rfl
@[simp] theorem State.setMem_width (s : State) (sp : Space) (m : Memory) : (s.setMem sp m).width = s.width := by cases sp <;> rfl
@[simp] theorem State.setMem_height (s : State) (sp : Space) (m : Memory) : (s.setMem sp m).height = s.height := by cases sp <;> rfl
@[simp] theorem State.setMem_payloadLen (s : State) (sp : Space) (m : Memory) : (s.setMem sp m).payloadLen = s.payloadLen := by cases sp <;> rfl
@[simp] theorem State.setMem_resultLen (s : State) (sp : Space) (m : Memory) : (s.setMem sp m).resultLen = s.resultLen := by cases sp <;> rfl
@[simp] theorem State.setMem_bitcount (s : State) (sp : Space) (m : Memory) : (s.setMem sp m).bitcount = s.bitcount := by cases sp <;> rfl
@[simp] theorem State.setMem_capacity (s : State) (sp : Space) (m : Memory) : (s.setMem sp m).capacity = s.capacity := by cases sp <;> rfl
@[simp] theorem State.setMem_epoch (s : State) (sp : Space) (m : Memory) : (s.setMem sp m).epoch = s.epoch := by cases sp <;> rfl
@[simp] theorem State.setMem_draws (s : State) (sp : Space) (m : Memory) : (s.setMem sp m).draws = s.draws := by cases sp <;> rfl
@[simp] theorem State.setMem_agenda (s : State) (sp : Space) (m : Memory) : (s.setMem sp m).agenda = s.agenda := by cases sp <;> rfl
@[simp] theorem State.setMem_response (s : State) (sp : Space) (m : Memory) : (s.setMem sp m).response = s.response := by cases sp <;> rfl

@[simp] theorem statusIssue_busy (t : Status) : (statusIssue t).busy = true := rfl
@[simp] theorem statusIssue_done (t : Status) : (statusIssue t).done = false := rfl
@[simp] theorem statusIssue_err (t : Status) : (statusIssue t).err = false := rfl
@[simp] theorem statusIssue_haz (t : Status) : (statusIssue t).haz = t.haz := rfl
@[simp] theorem statusIssue_term (t : Status) : (statusIssue t).term = false := rfl
@[simp] theorem statusIssue_errcode (t : Status) : (statusIssue t).errcode = 0#4 := rfl

@[simp] theorem statusSucceed_busy (t : Status) : (statusSucceed t).busy = false := rfl
@[simp] theorem statusSucceed_done (t : Status) : (statusSucceed t).done = true := rfl
@[simp] theorem statusSucceed_err (t : Status) : (statusSucceed t).err = t.err := rfl
@[simp] theorem statusSucceed_haz (t : Status) : (statusSucceed t).haz = t.haz := rfl
@[simp] theorem statusSucceed_term (t : Status) : (statusSucceed t).term = t.term := rfl
@[simp] theorem statusSucceed_errcode (t : Status) : (statusSucceed t).errcode = t.errcode := rfl

@[simp] theorem statusFail_busy (e : CmdError) (t : Status) : (statusFail e t).busy = false := rfl
@[simp] theorem statusFail_done (e : CmdError) (t : Status) : (statusFail e t).done = true := rfl
@[simp] theorem statusFail_err (e : CmdError) (t : Status) : (statusFail e t).err = true := rfl
@[simp] theorem statusFail_haz (e : CmdError) (t : Status) : (statusFail e t).haz = t.haz := rfl
@[simp] theorem statusFail_term (e : CmdError) (t : Status) : (statusFail e t).term = t.term := rfl
@[simp] theorem statusFail_errcode (e : CmdError) (t : Status) : (statusFail e t).errcode = errorCode e := rfl

@[simp] theorem statusHazard_busy (t : Status) : (statusHazard t).busy = t.busy := rfl
@[simp] theorem statusHazard_done (t : Status) : (statusHazard t).done = t.done := rfl
@[simp] theorem statusHazard_err (t : Status) : (statusHazard t).err = t.err := rfl
@[simp] theorem statusHazard_haz (t : Status) : (statusHazard t).haz = true := rfl
@[simp] theorem statusHazard_term (t : Status) : (statusHazard t).term = t.term := rfl
@[simp] theorem statusHazard_errcode (t : Status) : (statusHazard t).errcode = t.errcode := rfl

@[simp] theorem statusAck_busy (v : Word) (t : Status) : (statusAck v t).busy = t.busy := rfl
@[simp] theorem statusAck_done (v : Word) (t : Status) : (statusAck v t).done = (t.done && !v.getLsbD 1) := rfl
@[simp] theorem statusAck_err (v : Word) (t : Status) : (statusAck v t).err = (t.err && !v.getLsbD 2) := rfl
@[simp] theorem statusAck_haz (v : Word) (t : Status) : (statusAck v t).haz = (t.haz && !v.getLsbD 3) := rfl
@[simp] theorem statusAck_term (v : Word) (t : Status) : (statusAck v t).term = t.term := rfl
@[simp] theorem statusAck_errcode (v : Word) (t : Status) : (statusAck v t).errcode = (if v.getLsbD 2 then 0#4 else t.errcode) := rfl

/-! The memories by name. -/

@[simp] theorem State.memOf_payload (s : State) : s.memOf .payload = s.payload := rfl
@[simp] theorem State.memOf_result (s : State) : s.memOf .result = s.result := rfl
@[simp] theorem State.memOf_imgIn (s : State) : s.memOf .imgIn = s.imgIn := rfl
@[simp] theorem State.memOf_imgOut (s : State) : s.memOf .imgOut = s.imgOut := rfl

/-- Replacing a memory replaces that memory and no other. -/
theorem State.setMem_memOf (s : State) (sp sp' : Space) (m : Memory) :
    (s.setMem sp m).memOf sp' = if sp' = sp then m else s.memOf sp' := by
  cases sp <;> cases sp' <;> rfl

@[simp] theorem State.setMem_memOf_self (s : State) (sp : Space) (m : Memory) : (s.setMem sp m).memOf sp = m := by
  cases sp <;> rfl

end Sys2Proof.Machine
end

