-- ==== Sys2Proof/Laws/Memory.lean ====
section
/-! SUPPORT. What the memory operations of Ops do, once each: read after write, what a write leaves alone, and the canonical
form every operation keeps. -/

namespace Sys2Proof.Machine

open Sys2Proof

/-! One byte. -/

/-- Read after write of one byte (20_memory.md R80). -/
theorem cellAt_storeByte (m : Memory) (a b : Nat) (v : Byte) :
    cellAt (storeByte m a v) b = if b = a then some v else cellAt m b := by
  induction m with
  | nil => simp [storeByte, cellAt]
  | cons c m ih =>
    obtain ⟨o, w⟩ := c
    simp only [storeByte]
    split
    · simp [cellAt]
    · split
      · subst_vars
        simp only [cellAt]
        split
        · rfl
        · simp_all
      · simp only [cellAt, ih]
        split
        · rw [if_neg (by omega)]
        · rfl

/-- The offsets listed after one byte is written. -/
theorem mem_storeByte {m : Memory} {a : Nat} {v : Byte} {c : Host.Cell} (h : c ∈ storeByte m a v) :
    c = (a, v) ∨ c ∈ m := by
  induction m with
  | nil => simpa [storeByte] using h
  | cons d m ih =>
    simp only [storeByte] at h
    split at h
    · simpa using h
    · split at h
      · rcases List.mem_cons.mp h with h | h
        · exact .inl h
        · exact .inr (List.mem_cons_of_mem _ h)
      · rcases List.mem_cons.mp h with h | h
        · exact .inr (h ▸ List.mem_cons_self)
        · exact (ih h).imp_right (List.mem_cons_of_mem _)

/-- Writing a byte keeps the canonical form. -/
theorem storeByte_wf {m : Memory} (h : m.wf) (a : Nat) (v : Byte) : (storeByte m a v).wf := by
  induction m with
  | nil => simp [Memory.wf, storeByte]
  | cons d m ih =>
    obtain ⟨o, w⟩ := d
    rw [Memory.wf, List.pairwise_cons] at h
    obtain ⟨h1, h2⟩ := h
    simp only [storeByte]
    split
    · refine List.pairwise_cons.mpr ⟨?_, List.pairwise_cons.mpr ⟨h1, h2⟩⟩
      intro c hc
      rcases List.mem_cons.mp hc with rfl | hc
      · assumption
      · have := h1 c hc; simp only at *; omega
    · split
      · subst_vars; exact List.pairwise_cons.mpr ⟨h1, h2⟩
      · refine List.pairwise_cons.mpr ⟨?_, ih h2⟩
        intro c hc
        rcases mem_storeByte hc with rfl | hc
        · simp only; omega
        · exact h1 c hc

/-- Writing a byte inside a memory lists nothing outside it. -/
theorem storeByte_inside {m : Memory} {n a : Nat} (h : m.inside n) (ha : a < n) (v : Byte) :
    (storeByte m a v).inside n := by
  intro c hc
  rcases mem_storeByte hc with rfl | hc
  · exact ha
  · exact h c hc

/-! Consecutive bytes. -/

/-- Read after write of consecutive bytes: the written ones, and every other byte as before. -/
theorem cellAt_storeBytes (m : Memory) (a : Nat) (vs : List Byte) (b : Nat) :
    cellAt (storeBytes m a vs) b =
      if h : a ≤ b ∧ b - a < vs.length then some (vs[b - a]'h.2) else cellAt m b := by
  induction vs generalizing m a with
  | nil => simp [storeBytes]
  | cons v vs ih =>
    simp only [storeBytes, ih, cellAt_storeByte, List.length_cons]
    by_cases hab : b = a
    · subst hab; simp
    · by_cases hlt : a ≤ b
      · have e : b - a = (b - (a + 1)) + 1 := by omega
        by_cases hl : b - (a + 1) < vs.length
        · rw [dif_pos ⟨by omega, hl⟩, dif_pos ⟨hlt, by omega⟩]
          simp only [e, List.getElem_cons_succ]
        · rw [dif_neg (by omega), dif_neg (by omega), if_neg hab]
      · rw [dif_neg (by omega), dif_neg (by omega), if_neg hab]

/-- Writing consecutive bytes keeps the canonical form. -/
theorem storeBytes_wf {m : Memory} (h : m.wf) (a : Nat) (vs : List Byte) : (storeBytes m a vs).wf := by
  induction vs generalizing m a with
  | nil => exact h
  | cons v vs ih => exact ih (storeByte_wf h a v) _

/-- Writing consecutive bytes inside a memory lists nothing outside it. -/
theorem storeBytes_inside {m : Memory} {n a : Nat} {vs : List Byte} (h : m.inside n) (ha : a + vs.length ≤ n) :
    (storeBytes m a vs).inside n := by
  induction vs generalizing m a with
  | nil => exact h
  | cons v vs ih =>
    simp only [List.length_cons] at ha
    exact ih (storeByte_inside h (by omega) v) (by omega)

/-! Words. -/

/-- A word has four bytes. -/
@[simp] theorem wordBytes_length (w : Word) : (wordBytes w).length = 4 := rfl

/-- The bytes of consecutive words. -/
@[simp] theorem flatMap_wordBytes_length (ws : List Word) : (ws.flatMap wordBytes).length = 4 * ws.length := by
  induction ws with
  | nil => rfl
  | cons w ws ih => simp only [List.flatMap_cons, List.length_append, wordBytes_length, ih, List.length_cons]; omega

/-- Byte `j` of word `k` among the bytes of consecutive words. -/
theorem flatMap_wordBytes_get (ws : List Word) (k j : Nat) (hj : j < 4) :
    (ws.flatMap wordBytes)[4 * k + j]? = (ws[k]?).bind fun w => (wordBytes w)[j]? := by
  induction ws generalizing k with
  | nil => simp
  | cons w ws ih =>
    cases k with
    | zero =>
      rw [List.flatMap_cons, List.getElem?_append_left (by simp; omega)]
      simp
    | succ k =>
      rw [List.flatMap_cons, List.getElem?_append_right (by simp; omega)]
      have e : 4 * (k + 1) + j - (wordBytes w).length = 4 * k + j := by simp; omega
      rw [e, ih]
      simp

/-- Reading back the word made of the four bytes of a word. -/
theorem wordBytes_append (w : Word) :
    w.extractLsb' 24 8 ++ w.extractLsb' 16 8 ++ w.extractLsb' 8 8 ++ w.extractLsb' 0 8 = w := by
  ext i hi
  simp only [BitVec.getElem_append, BitVec.getElem_extractLsb']
  split
  · simp [BitVec.getLsbD_eq_getElem hi]
  · split
    · rw [show 8 + (i - 8) = i by omega, BitVec.getLsbD_eq_getElem hi]
    · split
      · rw [show 16 + (i - 8 - 8) = i by omega, BitVec.getLsbD_eq_getElem hi]
      · rw [show 24 + (i - 8 - 8 - 8) = i by omega, BitVec.getLsbD_eq_getElem hi]

/-! Reads through the state. -/

/-- A byte of a memory that was replaced reads from the new one; every other memory reads as before. -/
theorem readByte_setMem (s : State) (sp sp' : Space) (m : Memory) (a : Nat) :
    readByte (s.setMem sp m) sp' a =
      if sp' = sp then (cellAt m a).getD (Config.powerOnByte s.epoch sp a) else readByte s sp' a := by
  cases sp <;> cases sp' <;> rfl

/-- Two states with the same memory and power-on read the same byte. -/
theorem readByte_congr {s t : State} {sp : Space} (hm : t.memOf sp = s.memOf sp) (he : t.epoch = s.epoch) (a : Nat) :
    readByte t sp a = readByte s sp a := by
  simp [readByte, hm, he]

/-- Two states whose bytes agree read the same word. -/
theorem readWord_congr {s t : State} {sp : Space} {a : Nat} (h : ∀ j, j < 4 → readByte t sp (a + j) = readByte s sp (a + j)) :
    readWord t sp a = readWord s sp a := by
  have h0 := h 0 (by omega); have h1 := h 1 (by omega); have h2 := h 2 (by omega); have h3 := h 3 (by omega)
  simp only [Nat.add_zero] at h0
  simp [readWord, h0, h1, h2, h3]

/-- Recording a response changes no byte. -/
@[simp] theorem readByte_respond (s : State) (r : BusResponse) (sp : Space) (a : Nat) :
    readByte (s.respond r) sp a = readByte s sp a := by
  cases sp <;> rfl

/-- Read after write of one word of a memory (20_memory.md R80). -/
theorem readWord_storeWord (s : State) (sp : Space) (a : Nat) (w : Word) :
    readWord (s.setMem sp (storeWord (s.memOf sp) a w)) sp a = w := by
  simp only [readWord, readByte_setMem, if_true, storeWord, cellAt_storeBytes]
  simpa [wordBytes] using wordBytes_append w

/-- A byte outside the word written reads as before. -/
theorem readByte_storeWord_other (s : State) (sp sp' : Space) (a b : Nat) (w : Word)
    (h : sp' ≠ sp ∨ b < a ∨ a + 4 ≤ b) :
    readByte (s.setMem sp (storeWord (s.memOf sp) a w)) sp' b = readByte s sp' b := by
  rw [readByte_setMem]
  split
  next e =>
    subst e
    have h : b < a ∨ a + 4 ≤ b := h.resolve_left (by simp)
    rw [storeWord, cellAt_storeBytes, dif_neg (by simp only [wordBytes_length]; omega)]
    rfl
  next => rfl

/-- A byte of RESULT after an EXTRACT stored its bytes (44_validation.md R276): the stored ones, and the rest as before. -/
theorem readByte_storeResult (s : State) (out : List Byte) (a : Nat) :
    readByte (s.storeResult out) .result a = (out[a]?).getD (readByte s .result a) := by
  simp only [readByte, State.memOf, State.storeResult, cellAt_storeBytes]
  by_cases h : a < out.length
  · rw [dif_pos ⟨Nat.zero_le _, by simpa using h⟩]; simp [h]
  · rw [dif_neg (by omega)]; simp [h]

/-- A byte of IMG_OUT after an EMBED stored its image: byte `j` of word `k`, and the bytes past the image as before. -/
theorem readByte_storeImage (s : State) (ws : List Word) (k j : Nat) (hj : j < 4) :
    readByte (s.storeImage ws) .imgOut (4 * k + j) =
      ((ws[k]?).bind fun w => (wordBytes w)[j]?).getD (readByte s .imgOut (4 * k + j)) := by
  simp only [readByte, State.memOf, State.storeImage, storeWords, cellAt_storeBytes, ← flatMap_wordBytes_get ws k j hj]
  by_cases h : 4 * k + j < (ws.flatMap wordBytes).length
  · rw [dif_pos ⟨Nat.zero_le _, by simpa using h⟩, List.getElem?_eq_getElem h]; simp
  · rw [dif_neg (by omega), List.getElem?_eq_none (by omega)]; simp

/-- A word of IMG_OUT after an EMBED stored its image (20_memory.md R86). -/
theorem readWord_storeImage (s : State) (ws : List Word) (k : Nat) :
    readWord (s.storeImage ws) .imgOut (4 * k) = (ws[k]?).getD (readWord s .imgOut (4 * k)) := by
  have h := fun j hj => readByte_storeImage s ws k j hj
  have h0 := h 0 (by omega); have h1 := h 1 (by omega); have h2 := h 2 (by omega); have h3 := h 3 (by omega)
  simp only [Nat.add_zero] at h0
  simp only [readWord, h0, h1, h2, h3]
  cases ws[k]? with
  | none => rfl
  | some w => exact wordBytes_append w

end Sys2Proof.Machine
end

