-- ==== Sys2Proof/Laws/Bus.lean ====
section
/-! SUPPORT. What a host access reaches and what a host access does, said once. -/

namespace Sys2Proof.Machine

open Sys2Proof

/-- The constraints of 00_scope.md R8 as arithmetic facts. -/
theorem Params.wf_bounds {p : Params} (h : p.wf = true) :
    p.imgWords ≤ 4194304 ∧ p.payloadBytes ≤ 1048576 ∧ p.payloadBytes % 4 = 0 ∧ p.imgWords / 8 ≤ p.resultBytes
      ∧ p.resultBytes ≤ 1048576 ∧ p.resultBytes % 4 = 0 := by
  simp only [Params.wf, Params.wfMaxW, Params.wfMaxH, Params.wfImgWords, Params.wfPayload, Params.wfResult,
    Bool.and_eq_true, decide_eq_true_eq] at h
  omega

/-- A word access to an aligned offset of a memory reaches that offset of that memory (20_memory.md R81, R84, R90). -/
theorem accessTarget_memory {p : Params} (hp : p.wf = true) {sp : Space} {off : Nat} {addr : Word} (h4 : off % 4 = 0)
    (hl : off < p.size sp) (ha : addr.toNat = regionBase sp + off) :
    accessTarget p addr .word = some (.memory sp off) := by
  have hb := Params.wf_bounds hp
  have hin : inRegion p sp (regionBase sp + off) := ⟨by omega, by omega⟩
  have hout : ∀ sp', sp' ≠ sp → ¬ inRegion p sp' (regionBase sp + off) := by
    intro sp' hne
    cases sp <;> cases sp' <;> simp only [ne_eq, reduceCtorEq, not_false_eq_true, not_true_eq_false, inRegion, regionBase,
      Params.size] at hl hne ⊢ <;> omega
  have hw : ¬ regionBase sp + off < registerWindow := by
    cases sp <;> simp only [regionBase, registerWindow] <;> omega
  have ht : targetOf p (regionBase sp + off) = some (.memory sp off) := by
    unfold targetOf
    rw [if_neg hw]
    cases sp
    · rw [if_pos hin]; simp
    · rw [if_neg (hout .payload nofun), if_pos hin]; simp
    · rw [if_neg (hout .payload nofun), if_neg (hout .result nofun), if_pos hin]; simp
    · rw [if_neg (hout .payload nofun), if_neg (hout .result nofun), if_neg (hout .imgIn nofun), if_pos hin]; simp
  have h0 : (regionBase sp + off) % 4 = 0 := by cases sp <;> simp only [regionBase] <;> omega
  simp [accessTarget, ha, h0, ht]

/-- Everything an access that reaches a memory reaches: its offset is aligned and lies inside the memory. -/
theorem accessTarget_memory_inside {p : Params} {sp : Space} {off : Nat} {addr : Word} {size : AccessSize}
    (h : accessTarget p addr size = some (.memory sp off)) :
    size = .word ∧ addr.toNat = regionBase sp + off ∧ off % 4 = 0 ∧ off < p.size sp := by
  unfold accessTarget at h
  split at h
  next hs =>
    obtain ⟨hs, h4⟩ := hs
    unfold targetOf at h
    split at h
    next => simp at h
    next =>
      split at h
      next hr => simp at h; obtain ⟨rfl, rfl⟩ := h; simp only [inRegion, regionBase] at hr ⊢; refine ⟨hs, ?_, ?_, ?_⟩ <;> omega
      next =>
        split at h
        next hr => simp at h; obtain ⟨rfl, rfl⟩ := h; simp only [inRegion, regionBase] at hr ⊢; refine ⟨hs, ?_, ?_, ?_⟩ <;> omega
        next =>
          split at h
          next hr => simp at h; obtain ⟨rfl, rfl⟩ := h; simp only [inRegion, regionBase] at hr ⊢; refine ⟨hs, ?_, ?_, ?_⟩ <;> omega
          next =>
            split at h
            next hr => simp at h; obtain ⟨rfl, rfl⟩ := h; simp only [inRegion, regionBase] at hr ⊢; refine ⟨hs, ?_, ?_, ?_⟩ <;> omega
            next => simp at h
  next => simp at h

/-- The register a register access reaches is that of its offset in the register window (10_state.md section 2). -/
theorem accessTarget_register {p : Params} {r : Register} {addr : Word} {size : AccessSize}
    (h : accessTarget p addr size = some (.register r)) :
    size = .word ∧ addr.toNat % 4 = 0 ∧ addr.toNat < 0x40 ∧ r = registerAt addr.toNat := by
  unfold accessTarget at h
  split at h
  next hs =>
    unfold targetOf registerWindow at h
    split at h
    next hw => simp at h; exact ⟨hs.1, hs.2, hw, h.symm⟩
    next =>
      split at h
      next => simp at h
      next =>
        split at h
        next => simp at h
        next =>
          split at h
          next => simp at h
          next =>
            split at h
            next => simp at h
            next => simp at h
  next => simp at h

/-- A host read changes the response and at most the counter of draws (20_memory.md R93). -/
theorem hostRead_frame (s : State) (addr : Word) (size : AccessSize) :
    ∃ r n, hostRead s addr size = { s with response := some r, draws := n } := by
  unfold hostRead
  split
  · exact ⟨_, s.draws, rfl⟩
  · exact ⟨_, s.draws, rfl⟩
  · split
    · exact ⟨_, _, rfl⟩
    · exact ⟨_, s.draws, rfl⟩

/-- A soft reset leaves STATUS as after power-on, whatever was in flight (70_reset_and_hazards.md R342). -/
theorem softReset_status (s : State) : (softReset s).status = Status.reset := by
  unfold softReset; split <;> rfl

/-- Everything the abort of a command can have done to memory (70_reset_and_hazards.md R343): nothing, or the bytes it could
have written replaced by draws. -/
theorem abortCommand_cases (s : State) :
    (abortRange s = none ∧ abortCommand s = s) ∨
    ∃ sp n, abortRange s = some (sp, n) ∧
      abortCommand s =
        { s.setMem sp (storeBytes (s.memOf sp) 0 ((List.range n).map (Config.abortByte s.draws sp))) with
          draws := s.draws + 1 } := by
  unfold abortCommand
  split
  next h => exact .inl ⟨h, rfl⟩
  next sp n h => exact .inr ⟨sp, n, h, rfl⟩

end Sys2Proof.Machine
end

