-- ==== Sys2Proof/Laws/Complete.lean ====
section
/-! SUPPORT. What the completions and the step can do, said once: a completion is either the error path with the code of the
checks or the success of its shape; a step is one of five cases. -/

namespace Sys2Proof.Machine

open Sys2Proof

/-- Everything a completed EMBED can have done (44_validation.md R271, R272). -/
theorem completeEmbed_cases {eng : Engine} {image : State → List Bool → List Word} {s t : State}
    (h : completeEmbed eng image s = .next t) :
    (∃ e, commandCheck .embed eng s = some e ∧ t = s.fail e) ∨
    (commandCheck .embed eng s = none ∧
      t = { s.storeImage (image s (textToBits s.payloadBytes)) with
            bitcount := BitVec.ofNat 32 (textToBits s.payloadBytes).length
            status := statusSucceed s.status }) := by
  unfold completeEmbed at h
  split at h
  next e he => exact .inl ⟨e, he, (Host.Outcome.next.inj h).symm⟩
  next he => exact .inr ⟨he, (Host.Outcome.next.inj h).symm⟩

/-- Everything a completed EXTRACT can have done (44_validation.md R271, R272, R276). -/
theorem completeExtract_cases {eng : Engine} {stream : State → List Bool} {s t : State}
    (h : completeExtract eng stream s = .next t) :
    (∃ e, commandCheck .extract eng s = some e ∧ t = s.fail e) ∨
    (commandCheck .extract eng s = none ∧
      t = { s.storeResult (extractStream (stream s)).out with
            resultLen := BitVec.ofNat 32 (extractStream (stream s)).out.length
            bitcount := BitVec.ofNat 32 (extractStream (stream s)).cnt
            status := statusSucceed { s.status with term := (extractStream (stream s)).term } }) := by
  unfold completeExtract at h
  split at h
  next e he => exact .inl ⟨e, he, (Host.Outcome.next.inj h).symm⟩
  next he => exact .inr ⟨he, (Host.Outcome.next.inj h).symm⟩

/-- Everything a completed CAPACITY can have done (44_validation.md R271 to R273). -/
theorem completeCapacity_cases {eng : Engine} {s t : State} (h : completeCapacity eng s = .next t) :
    (∃ e, commandCheck .capacity eng s = some e ∧ t = s.fail e) ∨
    (commandCheck .capacity eng s = none ∧
      t = { s with
            capacity := BitVec.ofNat 32 (cap eng s.opW s.opH)
            status := statusSucceed s.status }) := by
  unfold completeCapacity at h
  split at h
  next e he => exact .inl ⟨e, he, (Host.Outcome.next.inj h).symm⟩
  next he => exact .inr ⟨he, (Host.Outcome.next.inj h).symm⟩

/-- The output image of an EMBED command (R172, R200, R240). -/
def imageOf : Engine → State → List Bool → List Word
  | .lsb => lsbImage
  | .dct => dctImage
  | .dwt => dwtImage

/-- The carrier stream of an EXTRACT command (R173, R201, R241). -/
def streamOf : Engine → State → List Bool
  | .lsb => lsbStream
  | .dct => dctStream
  | .dwt => dwtStream

/-- Each command is the completion of its operation over its engine (44_validation.md R277). -/
theorem exec_eq (i : Instr) (s : State) :
    exec i s =
      match i.op with
      | .embed => completeEmbed i.engine (imageOf i.engine) s
      | .extract => completeExtract i.engine (streamOf i.engine) s
      | .capacity => completeCapacity i.engine s := by
  cases i <;> rfl

/-- Everything a step can have done: an idle engine turn, a completion, a host access or a power-on. -/
theorem step_cases {s t : State} (h : step s = .next t) :
    (s.agenda = [] ∧ s.status.busy = false ∧ t = s) ∨
    (s.agenda = [] ∧ s.status.busy = true ∧ complete s = .next t) ∨
    (∃ rest, s.agenda = .engine :: rest ∧ s.status.busy = false ∧ t = { s with agenda := rest }) ∨
    (∃ rest, s.agenda = .engine :: rest ∧ s.status.busy = true ∧ complete { s with agenda := rest } = .next t) ∨
    (∃ a rest, s.agenda = .host a :: rest ∧ t = hostAccess { s with agenda := rest } a) ∨
    (∃ rest, s.agenda = .powerOn :: rest ∧ t = powerOnReset { s with agenda := rest }) := by
  unfold step at h
  split at h
  next ha =>
    unfold engineTurn at h
    split at h
    next hb => exact .inr (.inl ⟨ha, hb, h⟩)
    next hb => exact .inl ⟨ha, by simpa using hb, (Host.Outcome.next.inj h).symm⟩
  next a rest ha => exact .inr (.inr (.inr (.inr (.inl ⟨a, rest, ha, (Host.Outcome.next.inj h).symm⟩))))
  next rest ha =>
    unfold engineTurn at h
    split at h
    next hb => exact .inr (.inr (.inr (.inl ⟨rest, ha, hb, h⟩)))
    next hb => exact .inr (.inr (.inl ⟨rest, ha, by simpa using hb, (Host.Outcome.next.inj h).symm⟩))
  next rest ha => exact .inr (.inr (.inr (.inr (.inr ⟨rest, ha, (Host.Outcome.next.inj h).symm⟩))))

end Sys2Proof.Machine
end

