-- ==== Sys2Proof/Laws/PerInstr.lean ====
section
/-! SUPPORT. Statements made per instruction: the word of each row of 30_encoding.md R115 is legal and decodes to its row. -/

namespace Sys2Proof.Laws

/-- The command's own word is a legal one and decodes to the command (30_encoding.md R115). -/
def EncodingAgrees.Statement (i : Instr) : Prop := Legal (encode i) = true ∧ decode (encode i) = .ok i

theorem EncodingAgrees.embedLsb : EncodingAgrees.Statement .embedLsb := by unfold EncodingAgrees.Statement; decide
theorem EncodingAgrees.extractLsb : EncodingAgrees.Statement .extractLsb := by unfold EncodingAgrees.Statement; decide
theorem EncodingAgrees.capacityLsb : EncodingAgrees.Statement .capacityLsb := by unfold EncodingAgrees.Statement; decide
theorem EncodingAgrees.embedDct : EncodingAgrees.Statement .embedDct := by unfold EncodingAgrees.Statement; decide
theorem EncodingAgrees.extractDct : EncodingAgrees.Statement .extractDct := by unfold EncodingAgrees.Statement; decide
theorem EncodingAgrees.capacityDct : EncodingAgrees.Statement .capacityDct := by unfold EncodingAgrees.Statement; decide
theorem EncodingAgrees.embedDwt : EncodingAgrees.Statement .embedDwt := by unfold EncodingAgrees.Statement; decide
theorem EncodingAgrees.extractDwt : EncodingAgrees.Statement .extractDwt := by unfold EncodingAgrees.Statement; decide
theorem EncodingAgrees.capacityDwt : EncodingAgrees.Statement .capacityDwt := by unfold EncodingAgrees.Statement; decide

end Sys2Proof.Laws
end

