-- ==== Sys2Proof/Tests/Slice0.lean ====
section
/-! SUPPORT. The model's own tests: the well-formedness smoke tests, the decoder on words written out from 30_encoding.md,
vectors of 95_test_vectors.md, and a witness for the hypotheses of each statement. -/

namespace Sys2Proof.Tests

open Sys2Proof Sys2Proof.Machine

set_option Elab.async false

/-! ## Well-formedness: each check refuses an ill-formed term (30_encoding.md R115, R116; 00_scope.md R8) -/

theorem test_legal_word : Legal 0x00000023#32 = true := by decide
theorem test_illegal_op_zero : legalOp 0x00000000#32 = false ∧ Legal 0x00000000#32 = false := by decide
theorem test_illegal_op_four : legalOp 0x00000004#32 = false ∧ Legal 0x00000004#32 = false := by decide
theorem test_illegal_eng : legalEng 0x00000031#32 = false ∧ Legal 0x00000031#32 = false := by decide
theorem test_illegal_rsv : legalRsv 0x00000041#32 = false ∧ Legal 0x00000041#32 = false := by decide
theorem test_illegal_rsv_top : legalRsv 0x80000001#32 = false ∧ Legal 0x80000001#32 = false := by decide
theorem test_params_default : Params.default.wf = true := by decide
theorem test_params_maxW : { Params.default with maxW := 0 }.wfMaxW = false := by decide
theorem test_params_maxH : { Params.default with maxH := 65536 }.wfMaxH = false := by decide
theorem test_params_imgWords : { Params.default with maxW := 4097 }.wfImgWords = false := by decide
theorem test_params_payload : { Params.default with payloadBytes := 6 }.wfPayload = false := by decide
theorem test_params_result : { Params.default with resultBytes := 131068 }.wfResult = false := by decide

/-! ## Decoding: each word written out field by field, RSV ++ ENG ++ OP (30_encoding.md R110 to R112, R115) -/

theorem test_decode_embedLsb : decode (0b00000000000000000000000000#26 ++ 0b00#2 ++ 0b0001#4) = .ok .embedLsb := by decide
theorem test_decode_extractLsb : decode (0b00000000000000000000000000#26 ++ 0b00#2 ++ 0b0010#4) = .ok .extractLsb := by decide
theorem test_decode_capacityLsb : decode (0b00000000000000000000000000#26 ++ 0b00#2 ++ 0b0011#4) = .ok .capacityLsb := by decide
theorem test_decode_embedDct : decode (0b00000000000000000000000000#26 ++ 0b01#2 ++ 0b0001#4) = .ok .embedDct := by decide
theorem test_decode_extractDct : decode (0b00000000000000000000000000#26 ++ 0b01#2 ++ 0b0010#4) = .ok .extractDct := by decide
theorem test_decode_capacityDct : decode (0b00000000000000000000000000#26 ++ 0b01#2 ++ 0b0011#4) = .ok .capacityDct := by decide
theorem test_decode_embedDwt : decode (0b00000000000000000000000000#26 ++ 0b10#2 ++ 0b0001#4) = .ok .embedDwt := by decide
theorem test_decode_extractDwt : decode (0b00000000000000000000000000#26 ++ 0b10#2 ++ 0b0010#4) = .ok .extractDwt := by decide
theorem test_decode_capacityDwt : decode (0b00000000000000000000000000#26 ++ 0b10#2 ++ 0b0011#4) = .ok .capacityDwt := by decide
/-- V-ERR-1 to V-ERR-4: the reserved words, each rejected by name. -/
theorem test_decode_reserved :
    decode 0x00000000#32 = .error .reservedOp ∧ decode 0x00000031#32 = .error .reservedEngine
      ∧ decode 0x00000041#32 = .error .reservedBits ∧ decode 0x00000004#32 = .error .reservedOp := by decide

/-! ## Helpers -/

/-- The next state of an outcome. -/
def after : Outcome → Option State
  | .next t => some t
  | .fault _ => none
  | .refused _ => none

/-- The block with its operands, payload and carrier loaded. -/
def loaded (w h l : Nat) (payload : List Byte) (carrier : List Word) : State :=
  { State.reset with
    width := BitVec.ofNat 16 w
    height := BitVec.ofNat 16 h
    payloadLen := BitVec.ofNat 32 l
    payload := storeBytes [] 0 payload
    imgIn := (carrier.flatMap wordBytes).mapIdx fun a v => (a, v) }

/-- The STATUS word after a command. -/
def statusAfter (i : Instr) (s : State) : Option Word := (after (exec i s)).map fun t => statusWord t.status

/-- What an EXTRACT gives: RESULT bytes below RESULT_LEN, BITCOUNT, the STATUS word. -/
def extracted (i : Instr) (s : State) : Option (List Byte × Nat × Word) :=
  (after (exec i s)).map fun t =>
    ((List.range t.resultLen.toNat).map (readByte t .result), t.bitcount.toNat, statusWord t.status)

/-- The words of IMG_OUT at the given indices after a command. -/
def outWords (i : Instr) (s : State) (ks : List Nat) : Option (List Word) :=
  (after (exec i s)).map fun t => ks.map fun k => readWord t .imgOut (4 * k)

/-- One host access from a state. -/
def onAccess (s : State) (a : Access) : State := hostAccess s a

theorem test_table_interface :
    decodeTableWord 32 0x12 = some .extractDct
      ∧ (after (step (State.reset.withFetchWord 32 0x13))).map (fun t => statusWord t.status) = some 0x00000406#32 := by
  decide

/-! ## The commands (95_test_vectors.md) -/

/-- V-LSB-1. -/
theorem test_embedLsb_letter :
    outWords .embedLsb (loaded 4 4 1 [0x41#8] ((List.range 16).map fun k => BitVec.ofNat 32 (0xC0302010 + k)))
        (List.range 16)
      = some [0xC0302010#32, 0xC0302011#32, 0xC0302012#32, 0xC0302012#32, 0xC0302014#32, 0xC0302014#32, 0xC0302016#32,
          0xC0302017#32, 0xC0302018#32, 0xC0302018#32, 0xC030201A#32, 0xC030201A#32, 0xC030201C#32, 0xC030201C#32,
          0xC030201E#32, 0xC030201E#32] := by decide +kernel
/-- V-LSB-2. -/
theorem test_embedLsb_over_capacity :
    statusAfter .embedLsb (loaded 4 4 2 [0x41#8, 0x42#8] []) = some 0x00000206#32 := by decide
/-- V-LSB-3: no terminator, the ninth bit read and discarded. -/
theorem test_extractLsb_no_terminator :
    extracted .extractLsb (loaded 3 3 0 [] [1#32, 0#32, 1#32, 0#32, 1#32, 0#32, 1#32, 0#32, 1#32])
      = some ([0xAA#8], 9, 0x00000002#32) := by decide
/-- V-LSB-5: the all-zero carrier. -/
theorem test_extractLsb_zero :
    extracted .extractLsb (loaded 4 4 0 [] (List.replicate 16 0#32)) = some ([], 8, 0x00000012#32) := by decide
/-- V-LSB-9. -/
theorem test_capacityLsb :
    (after (exec .capacityLsb (loaded 1024 1024 0 [] []))).map (·.capacity) = some 1048576#32
      ∧ statusAfter .capacityLsb (loaded 0 5 0 [] []) = some 0x00000406#32 := by decide
/-- V-ERR-8: geometry before capacity. -/
theorem test_embedDct_geometry : statusAfter .embedDct (loaded 12 8 200 [] []) = some 0x00000106#32 := by decide
/-- V-DCT-6: the block whose rows are the first pattern reads 1; 8×9 has one whole block (R205). -/
theorem test_extractDct_blocks :
    let s := loaded 8 9 0 [] ((List.range 64).map fun k => gray ([3, 40, 77, 114, 151, 188, 225, 6].getD (k % 8) 0))
    dctStream s = [true] := by
  decide +kernel
/-- R205: 7×9 has no whole block. -/
theorem test_extractDct_none : extracted .extractDct (loaded 7 9 0 [] []) = some ([], 0, 0x00000002#32) := by decide
/-- V-DCT-3 and V-ERR-9. -/
theorem test_capacityDct :
    (after (exec .capacityDct (loaded 100 100 0 [] []))).map (·.capacity) = some 156#32
      ∧ statusAfter .capacityDct (loaded 1025 8 0 [] []) = some 0x00000406#32 := by decide
/-- V-DWT-2 on its first groups: 0 bits on a carrier of Gray(100) give 90 and 110; a group past the bits keeps 100. -/
theorem test_embedDwt_flat :
    dwtImage (loaded 6 2 0 [] (List.replicate 12 (gray 100))) [false, false]
      = [90, 110, 90, 110, 100, 100, 90, 110, 90, 110, 100, 100].map gray := by decide +kernel
/-- V-DWT-5: 2×2 fails on capacity, 256×1 on geometry; V-ERR-7: Config before Geometry. -/
theorem test_embedDwt_errors :
    [loaded 2 2 0 [] [], loaded 256 1 0 [] [], loaded 100 0 1 [] []].map (statusAfter .embedDwt)
      = [some 0x00000206#32, some 0x00000106#32, some 0x00000406#32] := by decide
/-- V-DWT-6. -/
theorem test_extractDwt_no_terminator :
    extracted .extractDwt (loaded 16 2 0 [] ((List.range 32).map fun k => gray (if k % 2 = 0 then 10 else 0)))
      = some ([0xFF#8], 8, 0x00000002#32) := by decide +kernel
/-- V-DWT-7: an odd and a unit geometry. -/
theorem test_extractDwt_odd :
    extracted .extractDwt (loaded 3 3 0 [] ([200, 100, 7, 200, 100, 9, 1, 2, 3].map gray)) = some ([], 1, 0x00000002#32)
      ∧ extracted .extractDwt (loaded 1 8 0 [] []) = some ([], 0, 0x00000002#32) := by decide
/-- V-ERR-10. -/
theorem test_capacityDwt :
    (after (exec .capacityDwt (loaded 100 100 0 [] []))).map (fun t => (t.capacity, statusWord t.status))
      = some (156#32, 0x00000002#32) := by decide

/-! ## The datapath (95_test_vectors.md) -/

/-- The 8×8 block with the given intensities, level shifted. -/
def shifted (f : Nat → Nat → Nat) : Grid := gridTab 8 8 fun i j => fSub (fOfNat (f i j)) levelShift

/-- V-DCT-6: the value depends on the order of evaluation. -/
theorem test_f43 :
    f43 (shifted fun _ j => [3, 40, 77, 114, 151, 188, 225, 6].getD j 0) = 0x3CF0000000000000#64
      ∧ readSign (f43 (shifted fun i j => 8 * i + j)) = false := by decide +kernel
/-- V-DCT-1: one block of a flat carrier forced to -25.0, its first samples. -/
theorem test_embedBlock :
    let c := gridTab 8 8 fun u v => if u = 4 ∧ v = 3 then 0xC039000000000000#64 else fZero
    (List.range 4).map (fun j => blockSample (idct c) 0 j) = [124, 129, 132, 130].map gray := by decide +kernel
/-- V-DWT-1. -/
theorem test_haar1D :
    haar1D ([1, 2, 3, 4].map fOfNat)
      = [0x4000F876CCDF6CD9#64, 0x4013CC8A99AF5453#64, 0xBFE6A09E667F3BCC#64, 0xBFE6A09E667F3BCC#64] := by decide
/-- V-COD-1. -/
theorem test_textToBits :
    textToBits [0x48#8, 0x69#8] = [0, 1, 0, 0, 1, 0, 0, 0, 0, 1, 1, 0, 1, 0, 0, 1, 0, 0, 0, 0, 0, 0, 0, 0].map (· == 1) := by
  decide
/-- V-COD-2. -/
theorem test_extractStream :
    extractStream ([1, 0, 1, 1, 0, 0, 0, 0, 1].map (· == 1)) = ⟨[0xB0#8], 9, false⟩
      ∧ extractStream (([0, 1, 0, 0, 0, 0, 0, 1] ++ List.replicate 8 0 ++ List.replicate 8 1).map (· == 1))
        = ⟨[0x41#8], 16, true⟩ := by decide
/-- V-COD-3: 3.5 and K = 20 for a 0 bit give -23.5; -0.0 and K = 25 for a 1 bit give +25. -/
theorem test_forceSign :
    forceSign 0x400C000000000000#64 false kDwt = 0xC037800000000000#64
      ∧ forceSign 0x8000000000000000#64 true kDct = 0x4039000000000000#64 := by decide +kernel
/-- V-COD-4: 0.49999999999999994, 0.5, 2.5, 254.5, 1.0. -/
theorem test_quantise :
    [0x3FDFFFFFFFFFFFFF#64, 0x3FE0000000000000#64, 0x4004000000000000#64, 0x406FD00000000000#64, fOne].map quantise
      = [0, 1, 3, 255, 1] := by decide

/-! ## The bus, the hazard and reset (95_test_vectors.md) -/

/-- V-REG-1: reserved bits of WIDTH are dropped; CTRL without SRST sets IE. -/
theorem test_register_writes :
    readRegister (onAccess State.reset (.write 0x10#32 .word 0x00010004#32)) .width = 0x00000004#32
      ∧ readRegister (onAccess State.reset (.write 0x04#32 .word 0xFFFFFFFD#32)) .ctrl = 0x00000001#32 := by decide
/-- V-HAZ-1: a CMD write while BUSY = 1 is dropped and sets HAZ. -/
theorem test_busy_hazard :
    let t := onAccess (State.reset.withFetchWord 32 0x01) (.write 0x08#32 .word 0x3#32)
    t.cmdLast = 0x1#32 ∧ statusWord t.status = 0x00000009#32 := by decide
/-- A memory word is stored little-endian (20_memory.md R80); an unmapped address gets a bus error. -/
theorem test_memory_write :
    (onAccess State.reset (.write 0x00100004#32 .word 0x44332211#32)).payload
        = [(4, 0x11#8), (5, 0x22#8), (6, 0x33#8), (7, 0x44#8)]
      ∧ (onAccess State.reset (.write 0x00120000#32 .word 0#32)).response = some .writeBusError := by decide
/-- V-RST-2: a soft reset with bit 0 written as 1 leaves IE = 0. -/
theorem test_soft_reset :
    let t := onAccess { State.reset with width := 4#16, ie := true, resultLen := 1#32 } (.write 0x04#32 .word 0x3#32)
    t.width = 0#16 ∧ t.ie = false ∧ t.resultLen = 0#32 := by decide

/-! ## Witnesses: a concrete state and operands that meet the hypotheses of each statement together -/

/-- A command in flight right after reset. -/
def inFlight (w : Nat) : State := State.reset.withFetchWord 32 w

/-- A state about to see one host access. -/
def facing (s : State) (a : Access) : State := { s with agenda := [.host a] }

/-- A host read of a word. -/
def rd (addr : Word) : Access := .read addr .word

/-- A host write of a word. -/
def wr (addr v : Word) : Access := .write addr .word v

theorem witness_LegalFieldsDecode : decode 0x23#32 = .ok .capacityDwt ∧ decode 0x01#32 = .ok .embedLsb := by decide

theorem witness_StepRunsDecodedCommand :
    ((inFlight 0x13).status.busy = true ∧ decode (inFlight 0x13).cmdLast = .ok .capacityDct ∧ (inFlight 0x13).agenda = [])
      ∧ ∃ rest, { inFlight 0x01 with agenda := [.engine, .powerOn] }.agenda = .engine :: rest
        ∧ decode (inFlight 0x01).cmdLast = .ok .embedLsb := ⟨by decide, [.powerOn], by decide⟩

theorem witness_IllegalWordCompletesWithCodeThree :
    (inFlight 0x31).status.busy = true ∧ (inFlight 0x31).agenda = []
      ∧ (inFlight 0x31).cmdLast ∉ [0x01#32, 0x02#32, 0x03#32, 0x11#32, 0x12#32, 0x13#32, 0x21#32, 0x22#32, 0x23#32] := by
  decide

theorem witness_RegisterReads :
    (facing State.reset (rd 0x3C#32)).agenda = .host (.read 0x3C#32 .word) :: []
      ∧ (facing (inFlight 0x01) (rd 0x00#32)).agenda = .host (.read 0x00#32 .word) :: [] := by decide

theorem witness_StatusWriteClearsBits :
    (facing (inFlight 0x01) (wr 0x0C#32 0xE#32)).agenda = .host (.write 0x0C#32 .word 0xE#32) :: [] := by decide

theorem witness_CommandWriteIssues :
    (facing State.reset (wr 0x08#32 0x31#32)).status.busy = false
      ∧ (facing State.reset (wr 0x08#32 0x31#32)).agenda = .host (.write 0x08#32 .word 0x31#32) :: [] := by decide

/-- One witness for each clause: a dropped register, the last word of each memory, a read-only register, STATUS, CTRL
without and with SRST. -/
theorem witness_BusyHazardDropsWrites :
    (facing (inFlight 0x01) (wr 0x18#32 0#32)).status.busy = true
      ∧ (facing (inFlight 0x01) (wr 0x18#32 0#32)).agenda = .host (.write 0x18#32 .word 0#32) :: []
      ∧ (0x18#32 ∈ [0x08#32, 0x10#32, 0x14#32, 0x18#32])
      ∧ (0x0011FFFC % 4 = 0 ∧ 0x00100000 ≤ 0x0011FFFC ∧ 0x0011FFFC < 0x00100000 + State.reset.params.payloadBytes)
      ∧ (0x00200000 ≤ 0x0021FFFC ∧ 0x0021FFFC < 0x00200000 + State.reset.params.resultBytes)
      ∧ (0x01000000 ≤ 0x013FFFFC ∧ 0x013FFFFC < 0x01000000 + 4 * (State.reset.params.maxW * State.reset.params.maxH))
      ∧ (0x02000000 ≤ 0x02000000 ∧ 0x02000000 < 0x02000000 + 4 * (State.reset.params.maxW * State.reset.params.maxH))
      ∧ (0x00#32 ∈ [0x00#32, 0x1C#32, 0x20#32, 0x24#32, 0x28#32, 0x2C#32, 0x30#32, 0x34#32, 0x38#32, 0x3C#32])
      ∧ (0x1#32).toNat / 2 % 2 = 0 ∧ (0x3#32).toNat / 2 % 2 = 1 := by decide

theorem witness_ReadOnlyRegistersIgnoreWrites :
    (facing State.reset (wr 0x3C#32 5#32)).agenda = .host (.write 0x3C#32 .word 5#32) :: []
      ∧ 0x3C#32 ∈ [0x00#32, 0x1C#32, 0x20#32, 0x24#32, 0x28#32, 0x2C#32, 0x30#32, 0x34#32, 0x38#32, 0x3C#32] := by decide

theorem witness_OperandRegisterWrites :
    State.reset.status.busy = false
      ∧ (facing State.reset (wr 0x10#32 0x00010004#32)).agenda = .host (.write 0x10#32 .word 0x00010004#32) :: []
      ∧ (facing State.reset (wr 0x14#32 0xFFFFFFFF#32)).agenda = .host (.write 0x14#32 .word 0xFFFFFFFF#32) :: []
      ∧ (facing State.reset (wr 0x18#32 0xFFFFFFFF#32)).agenda = .host (.write 0x18#32 .word 0xFFFFFFFF#32) :: [] := by
  decide

theorem witness_InterruptEnableDrivesLevel :
    (0xFFFFFFFD#32).toNat / 2 % 2 = 0
      ∧ (facing State.reset (wr 0x04#32 0xFFFFFFFD#32)).agenda = .host (.write 0x04#32 .word 0xFFFFFFFD#32) :: [] := by
  decide

/-- A sub-word width, a misaligned address, and the first unmapped addresses past the register window and past PAYLOAD. -/
theorem witness_BusErrorChangesNothing :
    AccessSize.half ≠ .word ∧ (0x2A#32).toNat % 4 ≠ 0
      ∧ (∀ addr ∈ [0x40, 0x00120000], 0x40 ≤ addr
        ∧ ¬ (0x00100000 ≤ addr ∧ addr < 0x00100000 + State.reset.params.payloadBytes)
        ∧ ¬ (0x00200000 ≤ addr ∧ addr < 0x00200000 + State.reset.params.resultBytes)
        ∧ ¬ (0x01000000 ≤ addr ∧ addr < 0x01000000 + 4 * (State.reset.params.maxW * State.reset.params.maxH))
        ∧ ¬ (0x02000000 ≤ addr ∧ addr < 0x02000000 + 4 * (State.reset.params.maxW * State.reset.params.maxH)))
      ∧ (facing State.reset (rd 0x40#32)).agenda = .host (.read 0x40#32 .word) :: []
      ∧ (facing State.reset (wr 0x00120000#32 7#32)).agenda = .host (.write 0x00120000#32 .word 7#32) :: [] := by decide

/-- The default parameters, with the last byte of PAYLOAD and the first of RESULT, each in its own region. -/
theorem witness_RegionsDoNotOverlap :
    Params.default.wf = true ∧ inRegion Params.default .payload 0x0011FFFF ∧ inRegion Params.default .result 0x00200000 := by
  decide

/-- The last word of PAYLOAD and the first of IMG_OUT. -/
theorem witness_MemoryWordWriteStores :
    State.reset.params.wf = true ∧ State.reset.status.busy = false
      ∧ 0x1FFFC % 4 = 0 ∧ 0x1FFFC < State.reset.params.size .payload
      ∧ (0x0011FFFC#32).toNat = regionBase .payload + 0x1FFFC
      ∧ (facing State.reset (wr 0x0011FFFC#32 9#32)).agenda = .host (.write 0x0011FFFC#32 .word 9#32) :: []
      ∧ 0 < State.reset.params.size .imgOut ∧ (0x02000000#32).toNat = regionBase .imgOut + 0 := by decide

/-- IMG_IN while BUSY = 1, and RESULT while BUSY = 1. -/
theorem witness_MemoryWordReads :
    (inFlight 0x02).params.wf = true ∧ (inFlight 0x02).status.busy = true
      ∧ 0x3FFFFC % 4 = 0 ∧ 0x3FFFFC < (inFlight 0x02).params.size .imgIn
      ∧ (0x013FFFFC#32).toNat = regionBase .imgIn + 0x3FFFFC
      ∧ (facing (inFlight 0x02) (rd 0x013FFFFC#32)).agenda = .host (.read 0x013FFFFC#32 .word) :: []
      ∧ 0x1FFFC < (inFlight 0x02).params.size .result ∧ (0x0021FFFC#32).toNat = regionBase .result + 0x1FFFC
      ∧ (facing (inFlight 0x02) (rd 0x0021FFFC#32)).agenda = .host (.read 0x0021FFFC#32 .word) :: [] := by decide

theorem witness_SoftResetWhenIdle :
    (0x3#32).toNat / 2 % 2 = 1 ∧ State.reset.status.busy = false
      ∧ (facing State.reset (wr 0x04#32 0x3#32)).agenda = .host (.write 0x04#32 .word 0x3#32) :: [] := by decide

/-- An EMBED that passes its checks, and a CAPACITY, which writes no memory. -/
theorem witness_SoftResetAbortsCommand :
    (0x2#32).toNat / 2 % 2 = 1 ∧ (facing ((loaded 2 4 0 [] []).withFetchWord 32 0x01) (wr 0x04#32 0x2#32)).status.busy = true
      ∧ (facing ((loaded 2 4 0 [] []).withFetchWord 32 0x01) (wr 0x04#32 0x2#32)).agenda
        = .host (.write 0x04#32 .word 0x2#32) :: []
      ∧ decode 0x01#32 = .ok .embedLsb ∧ commandCheck .embed .lsb (loaded 2 4 0 [] []) = none
      ∧ decode (inFlight 0x03).cmdLast = .ok .capacityLsb := by decide

theorem witness_PowerOnResetsEverything : { inFlight 0x01 with agenda := [.powerOn] }.agenda = .powerOn :: [] := by decide

/-- STATUS is sound in flight, and the step completes. -/
theorem witness_StatusInvariantsHold :
    (inFlight 0x31).status.Sound ∧ (after (step (inFlight 0x31))).isSome = true := by decide

theorem witness_StepKeepsSound : (inFlight 0x31).Sound ∧ ∃ t, step (inFlight 0x31) = .next t := by
  refine ⟨⟨by decide, by decide, by decide, fun sp => ?_⟩, _, rfl⟩
  cases sp <;> exact ⟨List.Pairwise.nil, nofun⟩

/-- One dropped write, in flight before and after. -/
theorem witness_InputsFixedFromIssueToCompletion :
    ∃ s t : State, (∀ k, k ≤ 1 → ∃ u, Host.Core.run Sys2Proof.core k s = .next u ∧ u.status.busy = true)
      ∧ Host.Core.run Sys2Proof.core 1 s = .next t := by
  refine ⟨facing (inFlight 0x01) (wr 0x10#32 8#32), _, fun k hk => ?_, rfl⟩
  match k, hk with
  | 0, _ => exact ⟨_, rfl, rfl⟩
  | 1, _ => exact ⟨_, rfl, rfl⟩

/-- Each clause: HAZ cleared by STATUS bit 3; an issue; a completion; HAZ set by a dropped write. -/
theorem witness_HazardIsSticky :
    (∃ s t : State, s.status.haz = true ∧ step s = .next t ∧ t.status.haz = false)
      ∧ (State.reset.status.busy = false
        ∧ (facing State.reset (wr 0x08#32 1#32)).agenda = .host (.write 0x08#32 .word 1#32) :: [])
      ∧ (inFlight 0x01).status.busy = true
      ∧ ∃ s t : State, s.status.haz = false ∧ step s = .next t ∧ t.status.haz = true :=
  ⟨⟨facing { State.reset with status := statusHazard Status.reset } (wr 0x0C#32 8#32), _, rfl, rfl, rfl⟩, by decide,
    by decide, facing (inFlight 0x01) (wr 0x08#32 3#32), _, rfl, rfl, rfl⟩

theorem witness_OnlyCompletionSetsDone :
    ∃ s t : State, s.status.done = false ∧ step s = .next t ∧ t.status.done = true :=
  ⟨inFlight 0x31, _, rfl, rfl, rfl⟩

theorem witness_PollingHostSeesCompletion :
    (facing (inFlight 0x02) (rd 0x0C#32)).status.busy = true
      ∧ ∀ x ∈ (facing (inFlight 0x02) (rd 0x0C#32)).agenda, ∃ addr size, x = .host (.read addr size) := by
  refine ⟨by decide, fun x hx => ⟨0x0C#32, .word, ?_⟩⟩
  simpa [facing, rd] using hx

/-- Both clauses, at W = 0 and at W = MAX_W, H = MAX_H, L = PAYLOAD_BYTES. -/
theorem witness_ConfigErrorExactly :
    ¬ ((loaded 0 4 0 [] []).GeometryInRange ∧ (Instr.extractLsb.op = .embed → (loaded 0 4 0 [] []).PayloadInRange))
      ∧ ((loaded 1024 1024 131072 [] []).GeometryInRange
        ∧ (Instr.embedLsb.op = .embed → (loaded 1024 1024 131072 [] []).PayloadInRange))
      ∧ (loaded 1024 1024 131072 [] []).status.errcode = 0#4 := by decide

/-- Both sides of the equivalence: 12×8 and 8×8. -/
theorem witness_GeometryErrorExactly :
    (loaded 12 8 0 [] []).status.errcode = 0#4 ∧ statusAfter .embedDct (loaded 12 8 0 [] []) = some 0x00000106#32
      ∧ statusAfter .embedDct (loaded 8 8 0 [] []) = some 0x00000206#32 := by decide

/-- Both sides of the equivalence: 1×7 holds 7 bits, 1×8 the 8 of the empty payload. -/
theorem witness_CapacityErrorExactly :
    (loaded 1 7 0 [] []).status.errcode = 0#4 ∧ statusAfter .embedLsb (loaded 1 7 0 [] []) = some 0x00000206#32
      ∧ statusAfter .embedLsb (loaded 1 8 0 [] []) = some 0x00000002#32 := by decide

theorem witness_FirstErrorIsReported :
    (inFlight 0x31).status.busy = true ∧ (inFlight 0x31).status.errcode = 0#4 ∧ (inFlight 0x31).agenda = [] := by decide

theorem witness_FailureWritesStatusOnly :
    ∃ s t : State, s.status.err = false ∧ complete s = .next t ∧ t.status.err = true :=
  ⟨inFlight 0x31, _, rfl, rfl, rfl⟩

/-- For each engine a geometry that passes its checks. -/
theorem witness_CapacityParity :
    ∀ e ∈ [Engine.lsb, .dct, .dwt], (loaded 8 8 0 [] []).status.errcode = 0#4 ∧ (loaded 8 8 0 [] []).GeometryInRange
      ∧ (loaded 8 8 0 [] []).PayloadInRange ∧ geometryOK e (loaded 8 8 0 [] []).width.toNat
        (loaded 8 8 0 [] []).height.toNat = true := by decide

/-- The largest and the least geometry. -/
theorem witness_CapacityCommandsComplete :
    (loaded 1024 1024 0 [] []).GeometryInRange ∧ (loaded 1 1 0 [] []).GeometryInRange := by decide

/-- The capacity met exactly: 8 bits on 2×4. -/
theorem witness_EmbedLsbCompletes :
    (loaded 2 4 0 [] []).GeometryInRange ∧ (loaded 2 4 0 [] []).PayloadInRange
      ∧ 8 * ((loaded 2 4 0 [] []).payloadLen.toNat + 1)
        ≤ (loaded 2 4 0 [] []).width.toNat * (loaded 2 4 0 [] []).height.toNat := by decide

theorem witness_ExtractLsbCompletes : (loaded 3 3 0 [] []).GeometryInRange := by decide

/-- The capacity met exactly: 8 bits on 64×8; and blocks past the sequence: 72×8. -/
theorem witness_EmbedDctCompletes :
    ∀ w ∈ [64, 72], (loaded w 8 0 [] []).GeometryInRange ∧ (loaded w 8 0 [] []).PayloadInRange
      ∧ (loaded w 8 0 [] []).width.toNat % 8 = 0 ∧ (loaded w 8 0 [] []).height.toNat % 8 = 0
      ∧ 8 * ((loaded w 8 0 [] []).payloadLen.toNat + 1)
        ≤ (loaded w 8 0 [] []).width.toNat * (loaded w 8 0 [] []).height.toNat / 64 := by decide

theorem witness_ExtractDctCompletes :
    (loaded 70 9 0 [] []).GeometryInRange ∧ (loaded 1 1 0 [] []).GeometryInRange := by decide

/-- The capacity met exactly: 8 bits on 32×16. -/
theorem witness_EmbedDwtCompletes :
    (loaded 32 16 0 [] []).GeometryInRange ∧ (loaded 32 16 0 [] []).PayloadInRange
      ∧ (∃ n, 1 ≤ n ∧ (loaded 32 16 0 [] []).width.toNat = 2 ^ n)
      ∧ (∃ n, 1 ≤ n ∧ (loaded 32 16 0 [] []).height.toNat = 2 ^ n)
      ∧ 8 * ((loaded 32 16 0 [] []).payloadLen.toNat + 1)
        ≤ (loaded 32 16 0 [] []).width.toNat * (loaded 32 16 0 [] []).height.toNat / 64 :=
  ⟨by decide, by decide, ⟨5, by decide⟩, ⟨4, by decide⟩, by decide⟩

theorem witness_ExtractDwtCompletes :
    (loaded 3 3 0 [] []).GeometryInRange ∧ (loaded 1 8 0 [] []).GeometryInRange := by decide

theorem witness_EngineWritesOutputsOnly :
    (∃ t, exec .capacityLsb (loaded 1 1 0 [] []) = .next t) ∧ Instr.capacityLsb.op ≠ .embed ∧ Instr.capacityLsb.op ≠ .extract :=
  ⟨⟨_, rfl⟩, by decide, by decide⟩

/-- Two states that differ in a register no command reads. -/
theorem witness_CommandDependsOnInputsOnly :
    ∃ s u : State, s ≠ u ∧ s.params = u.params ∧ s.width = u.width ∧ s.height = u.height ∧ s.payloadLen = u.payloadLen
      ∧ s.status = u.status ∧ (∀ a, a < s.payloadLen.toNat → readByte s .payload a = readByte u .payload a)
      ∧ ∀ a, a < 4 * (s.width.toNat * s.height.toNat) → readByte s .imgIn a = readByte u .imgIn a :=
  ⟨loaded 2 4 0 [] [], { loaded 2 4 0 [] [] with bitcount := 5#32 }, by decide, rfl, rfl, rfl, rfl, rfl,
    fun _ _ => rfl, fun _ _ => rfl⟩

theorem witness_TextBitsEndInTerminator : (List.replicate 13 0x41#8).length = 13 := by decide

theorem witness_TextBitsAreMsbFirst : 15 < 8 * ([0x41#8].length + 1) := by decide

/-- Both clauses: a stream with a terminator and one without. -/
theorem witness_ExtractAgreesWithBitsToText :
    (extractStream (List.replicate 8 false)).term = true ∧ (extractStream (List.replicate 7 true)).term = false := by decide

/-- A 2×4 carrier of ones after EMBED.LSB of the empty payload. -/
def embedded : State := ((after (exec .embedLsb (loaded 2 4 0 [] (List.replicate 8 0xFFFFFFFF#32)))).getD State.reset)

/-- The copy of the eight words of IMG_OUT into IMG_IN. -/
theorem witness_LsbRoundTrip :
    ∃ s t u : State, s.status.err = false ∧ exec .embedLsb s = .next t ∧ t.status.err = false ∧ u.params = t.params
      ∧ u.width = t.width ∧ u.height = t.height
      ∧ ∀ k, k < t.width.toNat * t.height.toNat → readWord u .imgIn (4 * k) = readWord t .imgOut (4 * k) := by
  refine ⟨loaded 2 4 0 [] (List.replicate 8 0xFFFFFFFF#32), embedded, { embedded with imgIn := embedded.imgOut }, rfl, rfl,
    rfl, rfl, rfl, rfl, ?_⟩
  decide +kernel

/-- Finite operands and a finite result. -/
theorem witness_AddRoundsToNearestEven :
    fFinite fOne = true ∧ fFinite fQuarter = true ∧ fFinite (fAdd fOne fQuarter) = true
      ∧ fFinite (fSub fOne fQuarter) = true := by decide

theorem witness_MulRoundsToNearestEven :
    fFinite fOne = true ∧ fFinite fQuarter = true ∧ fFinite (fMul fOne fQuarter) = true := by decide

theorem witness_DivRoundsToNearestEven :
    fFinite fOne = true ∧ fFinite sqrt2 = true ∧ fUnits sqrt2 ≠ 0 ∧ fFinite (fDiv fOne sqrt2) = true := by decide +kernel

theorem witness_IntensitiesAreExact : 255 < 256 ∧ 0 < 256 := by decide

theorem witness_QuantiserRoundsHalfUp : fFinite fQuarter = true ∧ fFinite f255 = true ∧ fFinite fZero = true := by decide

theorem witness_ForceSignEnforcesMagnitude :
    fFinite fZero = true ∧ (kDct = 0x4034000000000000#64 ∨ kDct = 0x4039000000000000#64)
      ∧ (kDwt = 0x4034000000000000#64 ∨ kDwt = 0x4039000000000000#64) := ⟨by decide, .inr rfl, .inl rfl⟩

theorem witness_ReadSignIsStrictlyPositive : fFinite 0x0000000000000001#64 = true ∧ fFinite fZero = true := by decide

theorem witness_GrayPixelLayout : 255 < 256 ∧ 0 < 256 := by decide

/-- Both clauses: any geometry, and one that passes the DCT geometry check. -/
theorem witness_TransformCapacitiesAgree : 64 % 8 = 0 ∧ 8 % 8 = 0 := by decide

end Sys2Proof.Tests
end

section
/-! SUPPORT. The bits of a byte sequence by index, most significant first (00_scope.md R12, 40_codec.md R140). -/

namespace Sys2Proof.Machine

open Sys2Proof

@[simp] theorem length_byteBits (b : Byte) : (byteBits b).length = 8 := rfl

theorem byteBits_getElem? (b : Byte) {j : Nat} (hj : j < 8) : (byteBits b)[j]? = some (b.getLsbD (7 - j)) := by
  interval_cases j <;> rfl

theorem length_flatMap_byteBits (bytes : List Byte) : (bytes.flatMap byteBits).length = 8 * bytes.length := by
  induction bytes with
  | nil => rfl
  | cons b bytes ih => simp only [List.flatMap_cons, List.length_append, length_byteBits, ih, List.length_cons]; omega

/-- Position `k` falls into byte `k / 8`, where the most significant bit comes first. -/
theorem flatMap_byteBits_getElem? (bytes : List Byte) {k : Nat} (hk : k < 8 * bytes.length) :
    (bytes.flatMap byteBits)[k]? = some ((bytes.getD (k / 8) 0#8).getLsbD (7 - k % 8)) := by
  induction bytes generalizing k with
  | nil => simp at hk
  | cons b bytes ih =>
    rw [List.flatMap_cons]
    rcases Nat.lt_or_ge k 8 with hlt | hge
    · rw [List.getElem?_append_left (by simpa using hlt), byteBits_getElem? b hlt, Nat.div_eq_of_lt hlt,
        Nat.mod_eq_of_lt hlt, List.getD_cons_zero]
    · obtain ⟨j, rfl⟩ := Nat.exists_eq_add_of_le' hge
      rw [List.length_cons] at hk
      rw [List.getElem?_append_right (by simp), length_byteBits, Nat.add_sub_cancel, ih (by omega),
        Nat.add_div_right j (by decide), Nat.add_mod_right, List.getD_cons_succ]

theorem length_textToBits (payload : List Byte) : (textToBits payload).length = 8 * (payload.length + 1) := by
  rw [textToBits, length_flatMap_byteBits, List.length_append, List.length_singleton]

/-- Settles O47, from the bits of a byte sequence by index. -/
theorem textBitsAreMsbFirst : Obligations.TextBitsAreMsbFirst := by
  intro payload
  refine ⟨length_textToBits payload, fun k hk => ?_⟩
  exact flatMap_byteBits_getElem? (payload ++ [terminator]) (by simpa using hk)

end Sys2Proof.Machine
end

section
/-! SUPPORT. What a binary64 encoding stands for (00_scope.md R14): the fields of a packed encoding, its value as an exact
integer in units of 2^-1074, and its negation. -/

namespace Sys2Proof.Machine

open Sys2Proof

/-! Signed magnitudes. -/

/-- The integer of a sign and a magnitude. -/
def signed (neg : Bool) (n : Nat) : Int := if neg then -(n : Int) else n

@[simp] theorem signed_false (n : Nat) : signed false n = n := rfl

@[simp] theorem signed_true (n : Nat) : signed true n = -(n : Int) := rfl

@[simp] theorem signed_zero (neg : Bool) : signed neg 0 = 0 := by cases neg <;> rfl

@[simp] theorem signed_not (neg : Bool) (n : Nat) : signed (!neg) n = -signed neg n := by
  cases neg <;> simp

@[simp] theorem natAbs_signed (neg : Bool) (n : Nat) : (signed neg n).natAbs = n := by
  cases neg <;> simp

@[simp] theorem abs_signed (neg : Bool) (n : Nat) : |signed neg n| = n := by
  cases neg <;> simp

theorem signed_add_signed (neg : Bool) (m n : Nat) : signed neg m + signed neg n = signed neg (m + n) := by
  unfold signed
  split <;> push_cast <;> ring

/-- With different signs the larger magnitude keeps its sign. -/
theorem signed_add_signed_not (neg : Bool) {m n : Nat} (h : n ≤ m) :
    signed neg m + signed (!neg) n = signed neg (m - n) := by
  cases neg <;> simp <;> omega

theorem signed_mul_two_pow (neg : Bool) (n e : Nat) : signed neg n * 2 ^ e = signed neg (n * 2 ^ e) := by
  cases neg <;> simp

theorem signed_mul_signed (p q : Bool) (m n : Nat) : signed p m * signed q n = signed (p != q) (m * n) := by
  cases p <;> cases q <;> simp

/-! The value of an encoding. -/

/-- The magnitude of a finite value, in units of `2^-1074`. -/
def fMagnitude (x : F64) : Nat := fMant x * 2 ^ fScale x

theorem fUnits_eq (x : F64) : fUnits x = signed (fNegative x) (fMagnitude x) := rfl

theorem fFinite_iff (x : F64) : fFinite x = true ↔ fExp x ≠ 2047 := by simp [fFinite]

theorem fIsNaN_of_finite {x : F64} (h : fFinite x = true) : fIsNaN x = false := by
  simp [fIsNaN, (fFinite_iff x).1 h]

theorem fIsInf_of_finite {x : F64} (h : fFinite x = true) : fIsInf x = false := by
  simp [fIsInf, (fFinite_iff x).1 h]

theorem fMant_lt (x : F64) : fMant x < 2 ^ 53 := by
  have hfrac : fFrac x < 2 ^ 52 := Nat.mod_lt _ (by decide)
  unfold fMant
  split <;> omega

theorem fMagnitude_eq_zero_iff (x : F64) : fMagnitude x = 0 ↔ fMant x = 0 := by
  simp [fMagnitude]

theorem fUnits_eq_zero_iff (x : F64) : fUnits x = 0 ↔ fMant x = 0 := by
  rw [← fMagnitude_eq_zero_iff, ← Int.natAbs_eq_zero, fUnits_eq, natAbs_signed]

/-! The fields of a packed encoding. -/

theorem toNat_fPack (neg : Bool) {mag : Nat} (h : mag < 2 ^ 63) :
    (fPack neg mag).toNat = mag + if neg then 2 ^ 63 else 0 := by
  rw [fPack, BitVec.toNat_ofNat, Nat.mod_eq_of_lt (by split <;> omega)]

theorem fNegative_fPack (neg : Bool) {mag : Nat} (h : mag < 2 ^ 63) : fNegative (fPack neg mag) = neg := by
  rw [fNegative, BitVec.msb_eq_decide, toNat_fPack neg h]
  cases neg
  case false => exact decide_eq_false (Nat.not_le.2 h)
  case true => exact decide_eq_true (Nat.le_add_left _ _)

theorem fExp_fPack (neg : Bool) {mag : Nat} (h : mag < 2 ^ 63) : fExp (fPack neg mag) = mag / 2 ^ 52 := by
  rw [fExp, toNat_fPack neg h, Nat.shiftRight_eq_div_pow]
  split <;> omega

theorem fFrac_fPack (neg : Bool) {mag : Nat} (h : mag < 2 ^ 63) : fFrac (fPack neg mag) = mag % 2 ^ 52 := by
  rw [fFrac, toNat_fPack neg h]
  split <;> omega

theorem fPack_toNat_mod_two (neg : Bool) {mag : Nat} (h : mag < 2 ^ 63) : (fPack neg mag).toNat % 2 = mag % 2 := by
  rw [toNat_fPack neg h]
  split <;> omega

/-- A packed magnitude is finite when it lies below the bits of an infinity. -/
theorem fFinite_fPack_min_iff (neg : Bool) (mag : Nat) :
    fFinite (fPack neg (min mag fInfBits)) = true ↔ mag < fInfBits := by
  have hlt : min mag fInfBits < 2 ^ 63 := lt_of_le_of_lt (Nat.min_le_right _ _) (by decide)
  rw [fFinite_iff, fExp_fPack neg hlt, fInfBits]
  omega

/-- A scale and a significand, packed as `fRound` packs them, stand for `significand · 2^scale`: a significand of `2^53`
carries into the exponent field. -/
theorem fMagnitude_fPack (neg : Bool) {q s : Nat} (hs : s ≤ 2 ^ 53) (hq : q = 0 ∨ 2 ^ 52 ≤ s)
    (hfin : q * 2 ^ 52 + s < fInfBits) : fMagnitude (fPack neg (q * 2 ^ 52 + s)) = s * 2 ^ q := by
  have hlt : q * 2 ^ 52 + s < 2 ^ 63 := hfin.trans (by decide)
  rw [fMagnitude, fMant, fScale, fExp_fPack neg hlt, fFrac_fPack neg hlt]
  rcases Nat.lt_or_ge s (2 ^ 52) with hsub | hnorm
  · obtain rfl : q = 0 := by omega
    rw [if_pos (by omega), show (0 * 2 ^ 52 + s) % 2 ^ 52 = s by omega, show (0 * 2 ^ 52 + s) / 2 ^ 52 - 1 = 0 by omega]
  · rcases Nat.lt_or_ge s (2 ^ 53) with hlt53 | hge53
    · rw [if_neg (by omega), show 2 ^ 52 + (q * 2 ^ 52 + s) % 2 ^ 52 = s by omega,
        show (q * 2 ^ 52 + s) / 2 ^ 52 - 1 = q by omega]
    · obtain rfl : s = 2 ^ 53 := by omega
      rw [if_neg (by omega), show 2 ^ 52 + (q * 2 ^ 52 + 2 ^ 53) % 2 ^ 52 = 2 ^ 52 by omega,
        show (q * 2 ^ 52 + 2 ^ 53) / 2 ^ 52 - 1 = q + 1 by omega, pow_succ 2 q, ← mul_assoc, mul_right_comm]
      rfl

/-! Negation. -/

theorem fExp_fNeg (x : F64) : fExp (fNeg x) = fExp x := by
  rw [fExp, fNeg, BitVec.toNat_xor, Nat.shiftRight_xor_distrib, show 2048 = 2 ^ 11 from rfl, Nat.xor_mod_two_pow]
  exact Nat.xor_zero _

theorem fFrac_fNeg (x : F64) : fFrac (fNeg x) = fFrac x := by
  rw [fFrac, fNeg, BitVec.toNat_xor, Nat.xor_mod_two_pow]
  exact Nat.xor_zero _

theorem fNegative_fNeg (x : F64) : fNegative (fNeg x) = !fNegative x := by
  rw [fNegative, fNeg, BitVec.msb_xor]
  exact Bool.xor_true _

@[simp] theorem fFinite_fNeg (x : F64) : fFinite (fNeg x) = fFinite x := by
  rw [fFinite, fExp_fNeg, fFinite]

@[simp] theorem fUnits_fNeg (x : F64) : fUnits (fNeg x) = -fUnits x := by
  rw [fUnits_eq, fUnits_eq, fNegative_fNeg, signed_not, fMagnitude, fMagnitude, fMant, fMant, fScale, fScale, fExp_fNeg,
    fFrac_fNeg]

end Sys2Proof.Machine
end

section
/-! SUPPORT. Rounding to nearest, ties to even, said once for every operation (00_scope.md R14): a significand that is half-even
for its scale (`HalfEven`), a scale that fits the exact value (`RoundsAt`), the encoding made of the two (`Rounds`), and what
follows for all other values (`NearestEven`). The exact value is the quotient of two naturals, so that a division has one. -/

namespace Sys2Proof.Machine

open Sys2Proof

/-! The rounded significand. -/

/-- `n` is `y / v` rounded to an integer: at most half a unit off, and even when it is exactly half a unit off. -/
def HalfEven (n y v : Nat) : Prop :=
  2 * |(n * v - y : Int)| ≤ v ∧ (2 * |(n * v - y : Int)| = v → n % 2 = 0)

/-- An exact quotient is its own rounding. -/
theorem halfEven_mul_self (n : Nat) {v : Nat} (hv : 0 < v) : HalfEven n (n * v) v := by
  constructor
  · simp
  · intro h
    simp at h
    omega

/-- Rounding looks at the quotient only. -/
theorem halfEven_mul_iff {n y v t : Nat} (ht : 0 < t) : HalfEven n (y * t) (v * t) ↔ HalfEven n y v := by
  have hcast : (0 : Int) < t := by exact_mod_cast ht
  have hdist : |(n * (v * t : Nat) - (y * t : Nat) : Int)| = |(n * v - y : Int)| * t := by
    rw [Nat.cast_mul, Nat.cast_mul, ← mul_assoc, ← sub_mul, abs_mul, abs_of_pos hcast]
  rw [HalfEven, HalfEven, hdist, ← mul_assoc, Nat.cast_mul, mul_le_mul_iff_of_pos_right hcast,
    mul_left_inj' hcast.ne']

theorem roundHalfEven_halfEven (m d : Nat) : HalfEven (roundHalfEven m d) m (2 ^ d) := by
  have hdiv := Nat.div_add_mod m (2 ^ d)
  have hmod : m % 2 ^ d < 2 ^ d := Nat.mod_lt _ (by positivity)
  unfold HalfEven roundHalfEven
  rw [Nat.shiftRight_eq_div_pow]
  generalize 2 ^ d = v at *
  generalize m / v = n at *
  generalize m % v = r at *
  have hcast : (m : Int) = n * v + r := by
    rw [← hdiv]
    push_cast
    ring
  dsimp only
  split
  · next hup =>
    have hdist : (((n + 1 : Nat) : Int) * v - m) = v - r := by
      rw [hcast]
      push_cast
      ring
    rw [hdist, abs_of_nonneg (by omega)]
    omega
  · next hdown =>
    have hdist : ((n : Int) * v - m) = -r := by
      rw [hcast]
      ring
    rw [hdist, abs_neg, abs_of_nonneg (by omega)]
    omega

/-- No integer is nearer to the quotient, and a second nearest one means a tie. -/
theorem HalfEven.nearest {n y v : Nat} (h : HalfEven n y v) (z : Int) :
    |(n * v - y : Int)| ≤ |z * v - y| ∧ (|(n * v - y : Int)| = |z * v - y| → z ≠ n → n % 2 = 0) := by
  obtain ⟨hle, htie⟩ := h
  rcases eq_or_ne z n with rfl | hne
  · exact ⟨le_rfl, fun _ hne => absurd rfl hne⟩
  · have hgap : (v : Int) ≤ |z * v - n * v| := by
      rw [← sub_mul, abs_mul, abs_of_nonneg (Int.natCast_nonneg v)]
      exact le_mul_of_one_le_left (Int.natCast_nonneg v) (Int.one_le_abs (sub_ne_zero.2 hne))
    have htri : |z * v - n * v| ≤ |z * v - y| + |(n * v - y : Int)| := by
      rw [abs_sub_comm (n * v : Int) y]
      exact abs_sub_le _ _ _
    exact ⟨by omega, fun heq _ => htie (by omega)⟩

theorem HalfEven.le_of_mul_le {n y v z : Nat} (h : HalfEven n y v) (hv : 0 < v) (hz : z * v ≤ y) : z ≤ n := by
  by_contra hlt
  have hstep : (n + 1) * v ≤ z * v := Nat.mul_le_mul_right v (by omega)
  have hlow : (n * v : Int) + v ≤ y := by
    rw [add_one_mul] at hstep
    exact_mod_cast hstep.trans hz
  have hdist := neg_abs_le (n * v - y : Int)
  have hle := h.1
  omega

theorem HalfEven.le_of_le_mul {n y v z : Nat} (h : HalfEven n y v) (hv : 0 < v) (hz : y ≤ z * v) : n ≤ z := by
  by_contra hlt
  have hstep : (z + 1) * v ≤ n * v := Nat.mul_le_mul_right v (by omega)
  have hhigh : (y : Int) + v ≤ n * v := by
    rw [add_one_mul] at hstep
    exact_mod_cast (Nat.add_le_add_right hz v).trans hstep
  have hdist := le_abs_self (n * v - y : Int)
  have hle := h.1
  omega

/-! The scale of the significand. -/

/-- `s · 2^q` is `y / u` rounded to binary64: a half-even significand at a scale where the exact significand has 53 bits, or
fewer at the subnormal scale. -/
structure RoundsAt (s q y u : Nat) : Prop where
  halfEven : HalfEven s y (2 ^ q * u)
  normal : q = 0 ∨ 2 ^ 52 * (2 ^ q * u) ≤ y
  lt : y < 2 ^ 53 * (2 ^ q * u)

/-- The integers a significand of 53 bits can stand for, in units of `2^-1074`. -/
def Representable (z : Int) : Prop := ∃ m e : Nat, m < 2 ^ 53 ∧ z.natAbs = m * 2 ^ e

theorem representable_fUnits (x : F64) : Representable (fUnits x) :=
  ⟨fMant x, fScale x, fMant_lt x, by rw [fUnits_eq, natAbs_signed, fMagnitude]⟩

theorem Representable.neg {z : Int} (h : Representable z) : Representable (-z) := by
  rwa [Representable, Int.natAbs_neg]

section
variable {s q y u : Nat}

theorem RoundsAt.pos (h : RoundsAt s q y u) : 0 < 2 ^ q * u :=
  Nat.pos_of_mul_pos_left ((Nat.zero_le y).trans_lt h.lt)

theorem RoundsAt.significand_le (h : RoundsAt s q y u) : s ≤ 2 ^ 53 :=
  h.halfEven.le_of_le_mul h.pos h.lt.le

theorem RoundsAt.significand_normal (h : RoundsAt s q y u) : q = 0 ∨ 2 ^ 52 ≤ s :=
  h.normal.imp_right (h.halfEven.le_of_mul_le h.pos)

theorem roundsAt_zero (hu : 0 < u) : RoundsAt 0 0 0 u := by
  have hexact := halfEven_mul_self 0 (v := 2 ^ 0 * u) (by positivity)
  rw [Nat.zero_mul] at hexact
  exact ⟨hexact, .inl rfl, by positivity⟩

theorem RoundsAt.of_mul {t : Nat} (ht : 0 < t) (h : RoundsAt s q (y * t) (u * t)) : RoundsAt s q y u := by
  obtain ⟨hhalf, hnormal, hlt⟩ := h
  rw [← mul_assoc (2 ^ q)] at hhalf hnormal hlt
  rw [← mul_assoc (2 ^ 52)] at hnormal
  rw [← mul_assoc (2 ^ 53)] at hlt
  exact ⟨(halfEven_mul_iff ht).1 hhalf, hnormal.imp_right (Nat.le_of_mul_le_mul_right · ht),
    Nat.lt_of_mul_lt_mul_right hlt⟩

/-- A value below `2^52 · 2^q`, the least normal one at the result's scale, is farther away than that one. -/
theorem RoundsAt.dist_lt_of_small (h : RoundsAt s q y u) (hq : q ≠ 0) {z : Int} (hz : z.natAbs < 2 ^ 52 * 2 ^ q) :
    |(s * (2 ^ q * u : Nat) - y : Int)| < |z * u - y| := by
  have hu : 0 < u := Nat.pos_of_mul_pos_left h.pos
  have hnormal : ((2 ^ 52 : Nat) * (2 ^ q * u : Nat) : Int) ≤ y := by exact_mod_cast h.normal.resolve_left hq
  have hbelow : z * u < (2 ^ 52 : Nat) * (2 ^ q * u : Nat) := by
    have hcast : z < (2 ^ 52 * 2 ^ q : Nat) := Int.lt_of_le_of_lt Int.le_natAbs (Int.ofNat_lt.2 hz)
    calc z * u < (2 ^ 52 * 2 ^ q : Nat) * u := mul_lt_mul_of_pos_right hcast (Int.natCast_pos.2 hu)
      _ = (2 ^ 52 : Nat) * (2 ^ q * u : Nat) := by push_cast; ring
  calc |(s * (2 ^ q * u : Nat) - y : Int)| ≤ |((2 ^ 52 : Nat) * (2 ^ q * u : Nat) - y : Int)| :=
        (h.halfEven.nearest (2 ^ 52 : Nat)).1
    _ = y - (2 ^ 52 : Nat) * (2 ^ q * u : Nat) := by rw [abs_of_nonpos (by omega)]; ring
    _ < y - z * u := by omega
    _ ≤ |z * u - y| := by rw [abs_sub_comm]; exact le_abs_self _

/-- A value of a smaller scale than the result's is farther away; one of at least that scale is an integer number of the
result's units. -/
theorem RoundsAt.nearest (h : RoundsAt s q y u) {z : Int} (hz : Representable z) :
    |((s * 2 ^ q : Nat) * u - y : Int)| ≤ |z * u - y|
      ∧ (|((s * 2 ^ q : Nat) * u - y : Int)| = |z * u - y| → z ≠ (s * 2 ^ q : Nat) → s % 2 = 0) := by
  have hunits : ∀ w : Int, w * 2 ^ q * u = w * (2 ^ q * u : Nat) := fun w => by push_cast; ring
  obtain ⟨m, e, hm, hme⟩ := hz
  rw [Nat.cast_mul, Nat.cast_pow, Nat.cast_ofNat, hunits]
  rcases Nat.lt_or_ge e q with hlt | hge
  · have hsmall : z.natAbs < 2 ^ 52 * 2 ^ q := by
      calc z.natAbs = m * 2 ^ e := hme
        _ < 2 ^ 53 * 2 ^ e := Nat.mul_lt_mul_of_pos_right hm (by positivity)
        _ = 2 ^ 52 * 2 ^ (e + 1) := by ring
        _ ≤ 2 ^ 52 * 2 ^ q := Nat.mul_le_mul_left _ (Nat.pow_le_pow_right (by decide) hlt)
    have hfar := h.dist_lt_of_small (by omega) hsmall
    exact ⟨hfar.le, fun heq _ => absurd heq hfar.ne⟩
  · obtain ⟨w, rfl⟩ : (2 ^ q : Int) ∣ z := by
      have hdvd : 2 ^ q ∣ z.natAbs := hme ▸ Dvd.dvd.mul_left (Nat.pow_dvd_pow 2 hge) m
      exact_mod_cast Int.natCast_dvd.2 hdvd
    rw [mul_comm _ w, hunits]
    obtain ⟨hnear, htie⟩ := h.halfEven.nearest w
    exact ⟨hnear, fun heq hne => htie heq fun hw => hne (by rw [hw])⟩

end

/-! The encoding of a rounded value. -/

/-- `x` encodes `± y / u`, rounded; beyond the largest finite value it is the infinity. -/
def Rounds (x : F64) (neg : Bool) (y u : Nat) : Prop :=
  ∃ s q, RoundsAt s q y u ∧ x = fPack neg (min (q * 2 ^ 52 + s) fInfBits)

/-- No value is nearer to `v / u` than `x`, and when another one is as near, `x` is even. -/
def NearestEven (x : F64) (v u : Int) : Prop :=
  ∀ z, Representable z → |fUnits x * u - v| ≤ |z * u - v|
    ∧ (|fUnits x * u - v| = |z * u - v| → z ≠ fUnits x → x.toNat % 2 = 0)

section
variable {x : F64} {neg : Bool} {y u : Nat}

theorem fPack_zero_rounds (neg : Bool) (hu : 0 < u) : Rounds (fPack neg 0) neg 0 u :=
  ⟨0, 0, roundsAt_zero hu, rfl⟩

theorem Rounds.of_mul {t : Nat} (ht : 0 < t) (h : Rounds x neg (y * t) (u * t)) : Rounds x neg y u := by
  obtain ⟨s, q, hat, hx⟩ := h
  exact ⟨s, q, hat.of_mul ht, hx⟩

theorem Rounds.fUnits_of_finite (h : Rounds x neg y u) (hfin : fFinite x = true) :
    ∃ s q, RoundsAt s q y u ∧ fUnits x = signed neg (s * 2 ^ q) ∧ x.toNat % 2 = s % 2 := by
  obtain ⟨s, q, hat, rfl⟩ := h
  have hmag : q * 2 ^ 52 + s < fInfBits := (fFinite_fPack_min_iff neg _).1 hfin
  have hlt : q * 2 ^ 52 + s < 2 ^ 63 := hmag.trans (by decide)
  rw [Nat.min_eq_left hmag.le]
  refine ⟨s, q, hat, ?_, ?_⟩
  · rw [fUnits_eq, fNegative_fPack neg hlt, fMagnitude_fPack neg hat.significand_le hat.significand_normal hmag]
  · rw [fPack_toNat_mod_two neg hlt]
    omega

theorem Rounds.nearestEven (h : Rounds x neg y u) (hfin : fFinite x = true) : NearestEven x (signed neg y) u := by
  obtain ⟨s, q, hat, hunits, hparity⟩ := h.fUnits_of_finite hfin
  intro z hz
  rw [hunits, hparity]
  cases neg
  case false => exact hat.nearest hz
  case true =>
    have hflip : ∀ w : Int, |w * u - signed true y| = |-w * u - y| := fun w => by
      rw [← abs_neg]
      rw [signed_true]
      ring_nf
    obtain ⟨hnear, htie⟩ := hat.nearest hz.neg
    rw [hflip, hflip, show -signed true (s * 2 ^ q) = (s * 2 ^ q : Nat) from neg_neg _]
    exact ⟨hnear, fun heq hne => htie heq fun hw => hne (neg_eq_iff_eq_neg.1 hw)⟩

end

theorem NearestEven.neg {x : F64} {v u : Int} (h : NearestEven x v u) : NearestEven x (-v) (-u) := by
  have hflip : ∀ w : Int, |w * -u - -v| = |w * u - v| := fun w => by
    rw [← abs_neg]
    ring_nf
  intro z hz
  rw [hflip, hflip]
  exact h z hz

/-- A value that is itself representable is not changed by rounding. -/
theorem NearestEven.fUnits_eq {x : F64} {z : Int} {u : Int} (h : NearestEven x (z * u) u) (hu : u ≠ 0)
    (hz : Representable z) : fUnits x = z := by
  have hnear := (h z hz).1
  rw [sub_self, abs_zero, abs_nonpos_iff, sub_eq_zero] at hnear
  exact mul_right_cancel₀ hu hnear

/-! Exact results. -/

theorem representable_mul_two_pow {z : Int} (h : z.natAbs < 2 ^ 53) (e : Nat) : Representable (z * 2 ^ e) :=
  ⟨z.natAbs, e, h, by rw [Int.natAbs_mul, Int.natAbs_pow]; rfl⟩

section
variable {x : F64} {neg : Bool} {y u : Nat}

/-- A magnitude of at most 53 bits at a scale with two to spare does not overflow. -/
theorem Rounds.finite_of_lt {e : Nat} (h : Rounds x neg y u) (hy : y < 2 ^ 53 * (2 ^ e * u)) (he : e ≤ 2044) :
    fFinite x = true := by
  obtain ⟨s, q, hat, rfl⟩ := h
  have hq : q ≤ e := by
    by_contra hlt
    have hnormal := hat.normal.resolve_left (by omega)
    have hscale : 2 ^ 53 * (2 ^ e * u) ≤ 2 ^ 52 * (2 ^ q * u) := by
      calc 2 ^ 53 * (2 ^ e * u) = 2 ^ 52 * (2 ^ (e + 1) * u) := by ring
        _ ≤ 2 ^ 52 * (2 ^ q * u) :=
          Nat.mul_le_mul_left _ (Nat.mul_le_mul_right u (Nat.pow_le_pow_right (by decide) (by omega)))
    omega
  have hs := hat.significand_le
  rw [fFinite_fPack_min_iff, fInfBits]
  omega

/-- An integer of 53 bits at such a scale is not changed by rounding. -/
theorem Rounds.exact {z : Int} {e : Nat} (h : Rounds x neg y 1) (hv : signed neg y = z * 2 ^ e) (hz : z.natAbs < 2 ^ 53)
    (he : e ≤ 2044) : fFinite x = true ∧ fUnits x = z * 2 ^ e := by
  have hy : y = z.natAbs * 2 ^ e := by
    rw [← natAbs_signed neg y, hv, Int.natAbs_mul, Int.natAbs_pow]
    rfl
  have hfin : fFinite x = true := by
    refine h.finite_of_lt (e := e) ?_ he
    rw [hy, Nat.mul_one]
    exact Nat.mul_lt_mul_of_pos_right hz (by positivity)
  have hnear := h.nearestEven hfin
  rw [hv, ← mul_one (z * 2 ^ e)] at hnear
  exact ⟨hfin, hnear.fUnits_eq one_ne_zero (representable_mul_two_pow hz e)⟩

end

end Sys2Proof.Machine
end

section
/-! SUPPORT. Addition, subtraction, multiplication and division round their exact value to nearest, ties to even
(00_scope.md R14). Each operation is `fRound` of an exact magnitude; the division's last bit is sticky. -/

namespace Sys2Proof.Machine

open Sys2Proof

/-! The rounding step of every operation. -/

/-- The scale `fRound` takes leaves 53 bits of significand before the rounding, or fewer at the subnormal scale. -/
theorem fRound_scale_bounds {m k bias q : Nat} (hm : m ≠ 0) (hq : q = (k + Nat.log2 m + 1) - (53 + bias)) :
    (q = 0 ∨ 2 ^ 52 * (2 ^ q * 2 ^ bias) ≤ m * 2 ^ k) ∧ m * 2 ^ k < 2 ^ 53 * (2 ^ q * 2 ^ bias) := by
  constructor
  · refine Nat.eq_zero_or_pos q |>.imp_right fun hpos => ?_
    calc 2 ^ 52 * (2 ^ q * 2 ^ bias) = 2 ^ (Nat.log2 m + k) := by
          rw [← pow_add, ← pow_add]
          congr 1
          omega
      _ = 2 ^ Nat.log2 m * 2 ^ k := pow_add _ _ _
      _ ≤ m * 2 ^ k := Nat.mul_le_mul_right _ (Nat.log2_self_le hm)
  · calc m * 2 ^ k < 2 ^ (Nat.log2 m + 1) * 2 ^ k := Nat.mul_lt_mul_of_pos_right Nat.lt_log2_self (by positivity)
      _ = 2 ^ (Nat.log2 m + 1 + k) := (pow_add _ _ _).symm
      _ ≤ 2 ^ (53 + (q + bias)) := Nat.pow_le_pow_right (by decide) (by omega)
      _ = 2 ^ 53 * (2 ^ q * 2 ^ bias) := by rw [pow_add, pow_add]

theorem fRound_rounds (neg : Bool) (m k bias : Nat) : Rounds (fRound neg m k bias) neg (m * 2 ^ k) (2 ^ bias) := by
  unfold fRound
  split
  · next hm =>
    rw [hm, Nat.zero_mul]
    exact fPack_zero_rounds neg (by positivity)
  · next hm =>
    dsimp only
    generalize hq : (k + Nat.log2 m + 1) - (53 + bias) = q
    obtain ⟨hnormal, hlt⟩ := fRound_scale_bounds hm hq.symm
    refine ⟨_, q, ⟨?_, hnormal, hlt⟩, rfl⟩
    rw [← pow_add]
    split
    · next hexact =>
      have hshift : m * 2 ^ k = (m <<< (k - (q + bias))) * 2 ^ (q + bias) := by
        rw [Nat.shiftLeft_eq, mul_assoc, ← pow_add, Nat.sub_add_cancel hexact]
      rw [hshift]
      exact halfEven_mul_self _ (by positivity)
    · next hinexact =>
      have hunit : 2 ^ (q + bias) = 2 ^ (q + bias - k) * 2 ^ k := by
        rw [← pow_add, Nat.sub_add_cancel (by omega)]
      rw [hunit, halfEven_mul_iff (by positivity)]
      exact roundHalfEven_halfEven m _

/-! The sticky bit of the division. -/

/-- Twice the quotient, with a last bit that says whether a remainder is left. -/
def stickyQuotient (a b : Nat) : Nat := 2 * (a / b) + if a % b = 0 then 0 else 1

theorem two_mul_le_stickyQuotient_iff {a b t : Nat} (hb : 0 < b) : 2 * t ≤ stickyQuotient a b ↔ t * b ≤ a := by
  rw [← Nat.le_div_iff_mul_le hb, stickyQuotient]
  split <;> omega

/-- An odd number rounded at a unit divisible by 4 is at least one off a tie, so a number that differs by less than one from
it, as a fraction of `b`, rounds to the same. -/
theorem HalfEven.of_odd {n m y b e : Nat} (h : HalfEven n m (4 * e)) (hodd : m % 2 = 1)
    (hclose : |(m * b - y : Int)| < b) : HalfEven n y (4 * e * b) := by
  set dist : Int := n * (4 * e : Nat) - m with hdist
  have hdistOdd : dist % 2 = 1 := by
    have hfour : dist = 4 * (n * e) - m := by
      rw [hdist]
      push_cast
      ring
    omega
  have hoff : |dist| ≤ 2 * e - 1 := by
    have hle : 2 * |dist| ≤ (4 * e : Nat) := h.1
    obtain habs | habs := abs_choice dist <;> omega
  have hsplit : (n * (4 * e * b : Nat) - y : Int) = dist * b + (m * b - y) := by
    rw [hdist]
    push_cast
    ring
  have hnear : |(n * (4 * e * b : Nat) - y : Int)| < 2 * e * b := by
    calc |(n * (4 * e * b : Nat) - y : Int)| ≤ |dist * b| + |(m * b - y : Int)| := hsplit ▸ abs_add_le _ _
      _ = |dist| * b + |(m * b - y : Int)| := by rw [abs_mul, Nat.abs_cast]
      _ < |dist| * b + b := Int.add_lt_add_left hclose _
      _ ≤ (2 * e - 1) * b + b := Int.add_le_add_right (mul_le_mul_of_nonneg_right hoff (Int.natCast_nonneg b)) _
      _ = 2 * e * b := by ring
  have hunit : ((4 * e * b : Nat) : Int) = 2 * (2 * e * b) := by
    push_cast
    ring
  constructor <;> omega

/-- Rounded at a unit divisible by 4, the sticky quotient rounds as the exact one: with a remainder left it is odd, and less
than one off twice the exact quotient. -/
theorem HalfEven.of_stickyQuotient {n a b e : Nat} (hb : 0 < b) (h : HalfEven n (stickyQuotient a b) (4 * e)) :
    HalfEven n (2 * a) (4 * e * b) := by
  unfold stickyQuotient at h
  split at h
  · next hrem =>
    have hexact : 2 * a = (2 * (a / b) + 0) * b := by
      rw [add_zero, mul_assoc, Nat.div_mul_cancel (Nat.dvd_of_mod_eq_zero hrem)]
    rw [hexact]
    exact (halfEven_mul_iff hb).2 h
  · next hrem =>
    refine h.of_odd (by omega) ?_
    have hmod : a % b < b := Nat.mod_lt a hb
    have hdiv := Nat.div_add_mod' a b
    generalize a / b = quo at *
    generalize a % b = rem at *
    have hoff : ((2 * quo + 1 : Nat) * b - (2 * a : Nat) : Int) = b - 2 * rem := by
      rw [← hdiv]
      push_cast
      ring
    rw [hoff, abs_lt]
    omega

/-- A sticky quotient of at least 57 bits loses more than its last two to the rounding, so the result rounds the exact
quotient. -/
theorem RoundsAt.of_stickyQuotient {s q a b k bias : Nat} (hb : 0 < b) (hbig : 2 ^ 56 ≤ stickyQuotient a b)
    (h : RoundsAt s q (stickyQuotient a b * 2 ^ k) (2 ^ bias)) : RoundsAt s q (2 * a * 2 ^ k) (2 ^ bias * b) := by
  obtain ⟨hhalf, hnormal, hlt⟩ := h
  have hdeep : k + 2 ≤ q + bias := by
    have hpow : 2 ^ (56 + k) < 2 ^ (53 + (q + bias)) := by
      calc 2 ^ (56 + k) = 2 ^ 56 * 2 ^ k := pow_add _ _ _
        _ ≤ stickyQuotient a b * 2 ^ k := Nat.mul_le_mul_right _ hbig
        _ < 2 ^ 53 * (2 ^ q * 2 ^ bias) := hlt
        _ = 2 ^ (53 + (q + bias)) := by rw [pow_add, pow_add]
    have hexp := (Nat.pow_lt_pow_iff_right (by decide)).1 hpow
    omega
  obtain ⟨d, hd⟩ := Nat.exists_eq_add_of_le hdeep
  have hunit : 2 ^ q * 2 ^ bias = 4 * 2 ^ d * 2 ^ k := by
    rw [← pow_add, hd]
    ring
  have hcomm : 2 ^ q * (2 ^ bias * b) = 4 * 2 ^ d * b * 2 ^ k := by
    rw [← mul_assoc, hunit]
    ring
  have htwice : ∀ t, t * (4 * 2 ^ d) = 2 * (t * 2 * 2 ^ d) ∧ t * (4 * 2 ^ d * b) = 2 * (t * 2 * 2 ^ d * b) :=
    fun t => ⟨by ring, by ring⟩
  have hpos : 0 < 2 ^ k := by positivity
  rw [hunit, halfEven_mul_iff hpos] at hhalf
  rw [hunit, ← mul_assoc (2 ^ 52), Nat.mul_le_mul_right_iff hpos, (htwice _).1, two_mul_le_stickyQuotient_iff hb] at hnormal
  rw [hunit, ← mul_assoc (2 ^ 53), Nat.mul_lt_mul_right hpos, (htwice _).1, ← not_le, two_mul_le_stickyQuotient_iff hb,
    not_le] at hlt
  constructor
  case halfEven =>
    rw [hcomm, halfEven_mul_iff hpos]
    exact hhalf.of_stickyQuotient hb
  case normal =>
    rw [hcomm, ← mul_assoc (2 ^ 52), Nat.mul_le_mul_right_iff hpos, (htwice _).2]
    exact hnormal.imp_right (Nat.mul_le_mul_left 2)
  case lt =>
    rw [hcomm, ← mul_assoc (2 ^ 53), Nat.mul_lt_mul_right hpos, (htwice _).2]
    exact Nat.mul_lt_mul_of_pos_left hlt Nat.two_pos

/-! The operations. -/

section
variable {a b : F64}

theorem shiftLeft_fMant_mul {x : F64} {k : Nat} (hk : k ≤ fScale x) :
    fMant x <<< (fScale x - k) * 2 ^ k = fMagnitude x := by
  rw [Nat.shiftLeft_eq, mul_assoc, ← pow_add, Nat.sub_add_cancel hk, fMagnitude]

theorem fAdd_rounds (ha : fFinite a = true) (hb : fFinite b = true) :
    ∃ neg y, fUnits a + fUnits b = signed neg y ∧ Rounds (fAdd a b) neg y 1 := by
  unfold fAdd
  simp only [fIsNaN_of_finite ha, fIsNaN_of_finite hb, fIsInf_of_finite ha, fIsInf_of_finite hb, Bool.or_self,
    Bool.false_eq_true, if_false]
  have hma := shiftLeft_fMant_mul (Nat.min_le_left (fScale a) (fScale b))
  have hmb := shiftLeft_fMant_mul (Nat.min_le_right (fScale a) (fScale b))
  rw [fUnits_eq, fUnits_eq, ← hma, ← hmb]
  generalize min (fScale a) (fScale b) = k
  generalize fMant a <<< (fScale a - k) = ma
  generalize fMant b <<< (fScale b - k) = mb
  split
  · next hsame =>
    rw [hsame, signed_add_signed, ← add_mul]
    exact ⟨_, _, rfl, fRound_rounds (fNegative b) (ma + mb) k 0⟩
  · next hdiff =>
    split
    · next hlt =>
      rw [Bool.eq_not_of_ne (Ne.symm hdiff), signed_add_signed_not _ (Nat.mul_le_mul_right _ hlt.le), ← Nat.sub_mul]
      exact ⟨_, _, rfl, fRound_rounds (fNegative a) (ma - mb) k 0⟩
    · next hnlt =>
      rw [Bool.eq_not_of_ne hdiff, add_comm, signed_add_signed_not _ (Nat.mul_le_mul_right _ (Nat.not_lt.1 hnlt)),
        ← Nat.sub_mul]
      split
      · exact ⟨_, _, rfl, fRound_rounds (fNegative b) (mb - ma) k 0⟩
      · next hge =>
        rw [Nat.sub_eq_zero_of_le (Nat.not_lt.1 hge), Nat.zero_mul, signed_zero]
        exact ⟨_, _, (signed_zero _).symm, fPack_zero_rounds false Nat.one_pos⟩

theorem fAdd_nearestEven (ha : fFinite a = true) (hb : fFinite b = true) (hfin : fFinite (fAdd a b) = true) :
    NearestEven (fAdd a b) (fUnits a + fUnits b) 1 := by
  obtain ⟨neg, y, hsum, hrounds⟩ := fAdd_rounds ha hb
  rw [hsum]
  exact hrounds.nearestEven hfin

theorem fSub_nearestEven (ha : fFinite a = true) (hb : fFinite b = true) (hfin : fFinite (fSub a b) = true) :
    NearestEven (fSub a b) (fUnits a - fUnits b) 1 := by
  rw [sub_eq_add_neg, ← fUnits_fNeg]
  exact fAdd_nearestEven ha (by rwa [fFinite_fNeg]) hfin

theorem fMul_rounds (ha : fFinite a = true) (hb : fFinite b = true) :
    Rounds (fMul a b) (fNegative a != fNegative b) (fMagnitude a * fMagnitude b) (2 ^ 1074) := by
  have hmag : fMagnitude a * fMagnitude b = fMant a * fMant b * 2 ^ (fScale a + fScale b) := by
    rw [fMagnitude, fMagnitude, pow_add]
    ring
  unfold fMul
  simp only [fIsNaN_of_finite ha, fIsNaN_of_finite hb, fIsInf_of_finite ha, fIsInf_of_finite hb, Bool.or_self,
    Bool.false_eq_true, if_false]
  rw [hmag]
  exact fRound_rounds _ _ _ _

theorem fMul_nearestEven (ha : fFinite a = true) (hb : fFinite b = true) (hfin : fFinite (fMul a b) = true) :
    NearestEven (fMul a b) (fUnits a * fUnits b) (2 ^ 1074) := by
  have hnear := (fMul_rounds ha hb).nearestEven hfin
  rw [Nat.cast_pow, Nat.cast_ofNat] at hnear
  rwa [fUnits_eq a, fUnits_eq b, signed_mul_signed]

/-- The quotient of a dividend that is not zero has bits to spare for the sticky bit. -/
theorem le_stickyQuotient_fMant (ha : fMant a ≠ 0) (hb : 0 < fMant b) :
    2 ^ 56 ≤ stickyQuotient (fMant a <<< divGuard) (fMant b) := by
  rw [show 2 ^ 56 = 2 * 2 ^ 55 from rfl, two_mul_le_stickyQuotient_iff hb, Nat.shiftLeft_eq]
  calc 2 ^ 55 * fMant b ≤ 2 ^ 55 * 2 ^ 53 := Nat.mul_le_mul_left _ (fMant_lt b).le
    _ ≤ 1 * 2 ^ divGuard := by decide
    _ ≤ fMant a * 2 ^ divGuard := Nat.mul_le_mul_right _ (Nat.one_le_iff_ne_zero.2 ha)

/-- The division of finite values by one that is not zero is one rounding of the sticky quotient. -/
theorem fDiv_eq_fRound (ha : fFinite a = true) (hb : fFinite b = true) (hzero : fMant b ≠ 0) :
    fDiv a b = fRound (fNegative a != fNegative b) (stickyQuotient (fMant a <<< divGuard) (fMant b))
      (fScale a + 1074) (fScale b + divGuard + 1) := by
  unfold fDiv
  simp only [fIsNaN_of_finite ha, fIsNaN_of_finite hb, fIsInf_of_finite ha, fIsInf_of_finite hb, Bool.or_self,
    Bool.false_eq_true, if_false, hzero]
  rfl

theorem fDiv_rounds (ha : fFinite a = true) (hb : fFinite b = true) (hzero : fMant b ≠ 0) :
    Rounds (fDiv a b) (fNegative a != fNegative b) (fMagnitude a * 2 ^ 1074) (fMagnitude b) := by
  have hpos : 0 < fMant b := Nat.pos_of_ne_zero hzero
  rw [fDiv_eq_fRound ha hb hzero]
  obtain hnull | hnonzero := eq_or_ne (fMant a) 0
  · rw [hnull, fMagnitude, hnull, Nat.zero_mul, Nat.zero_mul, Nat.zero_shiftLeft, stickyQuotient, Nat.zero_div,
      Nat.zero_mod, if_pos rfl, fRound, if_pos rfl]
    exact fPack_zero_rounds _ (Nat.mul_pos hpos (by positivity))
  · obtain ⟨s, q, hat, hx⟩ := fRound_rounds (fNegative a != fNegative b)
      (stickyQuotient (fMant a <<< divGuard) (fMant b)) (fScale a + 1074) (fScale b + divGuard + 1)
    have hexact := hat.of_stickyQuotient hpos (le_stickyQuotient_fMant hnonzero hpos)
    have hdividend : 2 * (fMant a <<< divGuard) * 2 ^ (fScale a + 1074)
        = fMagnitude a * 2 ^ 1074 * 2 ^ (divGuard + 1) := by
      rw [Nat.shiftLeft_eq, fMagnitude, pow_add, pow_succ 2 divGuard]
      generalize 2 ^ 1074 = one
      ring
    have hdivisor : 2 ^ (fScale b + divGuard + 1) * fMant b = fMagnitude b * 2 ^ (divGuard + 1) := by
      rw [fMagnitude, add_assoc, pow_add]
      ring
    rw [hdividend, hdivisor] at hexact
    exact ⟨s, q, hexact.of_mul (by positivity), hx⟩

theorem fDiv_nearestEven (ha : fFinite a = true) (hb : fFinite b = true) (hzero : fUnits b ≠ 0)
    (hfin : fFinite (fDiv a b) = true) : NearestEven (fDiv a b) (fUnits a * 2 ^ 1074) (fUnits b) := by
  have hnear := (fDiv_rounds ha hb (mt (fUnits_eq_zero_iff b).2 hzero)).nearestEven hfin
  rw [fUnits_eq a, fUnits_eq b, signed_mul_two_pow]
  cases hnb : fNegative b
  case false =>
    rw [hnb, Bool.bne_false] at hnear
    exact hnear
  case true =>
    rw [hnb, Bool.bne_true, signed_not] at hnear
    rw [← neg_neg (signed (fNegative a) _)]
    exact hnear.neg

/-! Exact results. -/

theorem fAdd_exact (ha : fFinite a = true) (hb : fFinite b = true) {z : Int} {e : Nat}
    (hsum : fUnits a + fUnits b = z * 2 ^ e) (hz : z.natAbs < 2 ^ 53) (he : e ≤ 2044) :
    fFinite (fAdd a b) = true ∧ fUnits (fAdd a b) = z * 2 ^ e := by
  obtain ⟨neg, y, hsigned, hrounds⟩ := fAdd_rounds ha hb
  exact hrounds.exact (hsigned.symm.trans hsum) hz he

theorem fSub_exact (ha : fFinite a = true) (hb : fFinite b = true) {z : Int} {e : Nat}
    (hdiff : fUnits a - fUnits b = z * 2 ^ e) (hz : z.natAbs < 2 ^ 53) (he : e ≤ 2044) :
    fFinite (fSub a b) = true ∧ fUnits (fSub a b) = z * 2 ^ e := by
  rw [sub_eq_add_neg, ← fUnits_fNeg] at hdiff
  exact fAdd_exact ha (by rwa [fFinite_fNeg]) hdiff hz he

end

theorem fOfNat_exact {n : Nat} (h : n < 2 ^ 53) :
    fFinite (fOfNat n) = true ∧ fUnits (fOfNat n) = (n : Int) * 2 ^ 1074 :=
  (fRound_rounds false n 1074 0).exact (signed_mul_two_pow false n 1074).symm h (by decide)

/-- The level shift of 42_dct.md R197 is the integer 128. -/
theorem fOfNat_128 : fOfNat 128 = levelShift := by decide

/-! The obligations. -/

/-- Settles O51: a sum is the rounding of the exact one, and a difference is a sum with the negated operand. -/
theorem addRoundsToNearestEven : Obligations.AddRoundsToNearestEven := by
  intro a b ha hb
  refine ⟨fun hfin c _ => ?_, fun hfin c _ => ?_⟩
  · have hnear := fAdd_nearestEven ha hb hfin (fUnits c) (representable_fUnits c)
    rwa [mul_one, mul_one] at hnear
  · have hnear := fSub_nearestEven ha hb hfin (fUnits c) (representable_fUnits c)
    rwa [mul_one, mul_one] at hnear

/-- Settles O52: the exact product of the significands is rounded once. -/
theorem mulRoundsToNearestEven : Obligations.MulRoundsToNearestEven := by
  intro a b ha hb hfin c _
  exact fMul_nearestEven ha hb hfin (fUnits c) (representable_fUnits c)

/-- Settles O53: the sticky quotient rounds as the exact one. -/
theorem divRoundsToNearestEven : Obligations.DivRoundsToNearestEven := by
  intro a b ha hb hzero hfin c _
  exact fDiv_nearestEven ha hb hzero hfin (fUnits c) (representable_fUnits c)

/-- Settles O54: an intensity and its level shift have far fewer than 53 bits. -/
theorem intensitiesAreExact : Obligations.IntensitiesAreExact := by
  intro n hn
  obtain ⟨hfin, hunits⟩ := fOfNat_exact (n := n) (by omega)
  obtain ⟨hfinShift, hunitsShift⟩ := fOfNat_exact (n := 128) (by omega)
  have hdiff : fUnits (fOfNat n) - fUnits (fOfNat 128) = ((n : Int) - 128) * 2 ^ 1074 := by
    rw [hunits, hunitsShift, sub_mul, Nat.cast_ofNat]
  obtain ⟨hfinSub, hunitsSub⟩ := fSub_exact hfin hfinShift hdiff (by omega) (by decide)
  rw [fOfNat_128] at hfinSub hunitsSub
  exact ⟨hunits, hunitsSub, hfin, hfinSub⟩

end Sys2Proof.Machine
end

section
/-! SUPPORT. What one step can do to the block, said once for every agent: an idle turn, a completion, a host access or a
power-on, with the guard of each. Every invariant of 10_state.md is derived from this inversion. -/

namespace Sys2Proof.Machine

open Sys2Proof

/-! The completion of a command. -/

/-- What the body of a command leaves before it succeeds (44_validation.md R271 to R273, R276). -/
def commandBody (i : Instr) (s : State) : State :=
  match i.op with
  | .embed =>
    { s.storeImage (imageOf i.engine s (textToBits s.payloadBytes)) with
      bitcount := BitVec.ofNat 32 (textToBits s.payloadBytes).length }
  | .extract =>
    let r := extractStream (streamOf i.engine s)
    { s.storeResult r.out with
      resultLen := BitVec.ofNat 32 r.out.length
      bitcount := BitVec.ofNat 32 r.cnt
      status := { s.status with term := r.term } }
  | .capacity => { s with capacity := BitVec.ofNat 32 (cap i.engine s.opW s.opH) }

@[simp] theorem commandBody_params (i : Instr) (s : State) : (commandBody i s).params = s.params := by
  cases i <;> rfl

/-- The body of a command touches no bit of STATUS but TERM. -/
theorem commandBody_status (i : Instr) (s : State) :
    ∃ b, (commandBody i s).status = { s.status with term := b } := by
  unfold commandBody
  split
  · exact ⟨s.status.term, rfl⟩
  · exact ⟨_, rfl⟩
  · exact ⟨s.status.term, rfl⟩

/-- A command whose checks pass succeeds with what its body left; else it fails with the error they report. -/
theorem exec_eq_body (i : Instr) (s : State) :
    exec i s = .next (match commandCheck i.op i.engine s with
      | some e => s.fail e
      | none => (commandBody i s).succeed) := by
  rw [exec_eq]
  unfold commandBody
  cases i.op with
  | embed => unfold completeEmbed; cases commandCheck .embed i.engine s <;> rfl
  | extract => unfold completeExtract; cases commandCheck .extract i.engine s <;> rfl
  | capacity => unfold completeCapacity; cases commandCheck .capacity i.engine s <;> rfl

/-- Everything a completion step can have done: the error path, or the success of a command whose checks passed. -/
theorem complete_cases {s t : State} (h : complete s = .next t) :
    (∃ e, t = s.fail e) ∨ ∃ i, commandCheck i.op i.engine s = none ∧ t = (commandBody i s).succeed := by
  unfold complete at h
  split at h
  next => exact .inl ⟨_, (Host.Outcome.next.inj h).symm⟩
  next i _ =>
    rw [exec_eq_body] at h
    obtain rfl := Host.Outcome.next.inj h
    split
    next e _ => exact .inl ⟨e, rfl⟩
    next hc => exact .inr ⟨i, hc, rfl⟩

/-! A host access. -/

/-- What a host access can do to the block besides its response. A write that BUSY guards is dropped or, while BUSY = 0,
acts (70_reset_and_hazards.md R350). -/
inductive HostEffect (s : State) : State → Prop
  | unchanged : HostEffect s s
  | draw (n : Nat) : HostEffect s { s with draws := n }
  | interruptEnable (b : Bool) : HostEffect s { s with ie := b }
  | reset : HostEffect s (softReset s)
  | acknowledge (v : Word) : HostEffect s (s.acknowledge v)
  | drop (busy : s.status.busy = true) : HostEffect s s.dropWrite
  | issue (idle : s.status.busy = false) (v : Word) : HostEffect s (s.issue v)
  | width (idle : s.status.busy = false) (w : Half) : HostEffect s { s with width := w }
  | height (idle : s.status.busy = false) (h : Half) : HostEffect s { s with height := h }
  | payloadLen (idle : s.status.busy = false) (l : Word) : HostEffect s { s with payloadLen := l }
  | memory (idle : s.status.busy = false) (sp : Space) (off : Nat) (v : Word) (aligned : off % 4 = 0)
      (inside : off < s.params.size sp) : HostEffect s (s.setMem sp (storeWord (s.memOf sp) off v))

/-- A write that is dropped while BUSY = 1 and has the given effect while BUSY = 0. -/
theorem HostEffect.guarded {s u : State} (h : s.status.busy = false → HostEffect s u) :
    HostEffect s (if s.status.busy then s.dropWrite else u) := by
  cases hb : s.status.busy with
  | true => simpa using .drop hb
  | false => simpa using h hb

theorem writeRegister_effect (s : State) (r : Register) (v : Word) : HostEffect s (writeRegister s r v) := by
  cases r with
  | ctrl =>
    simp only [writeRegister, writeCtrl]
    split
    · exact .reset
    · exact .interruptEnable _
  | cmd => exact .guarded fun idle => .issue idle v
  | status => exact .acknowledge v
  | width => exact .guarded fun idle => .width idle _
  | height => exact .guarded fun idle => .height idle _
  | payloadLen => exact .guarded fun idle => .payloadLen idle v
  | id | resultLen | bitcount | capacity | reserved => exact .unchanged

theorem hostRead_effect (s : State) (addr : Word) (size : AccessSize) :
    ∃ u r, HostEffect s u ∧ hostRead s addr size = u.respond r := by
  obtain ⟨r, n, h⟩ := hostRead_frame s addr size
  exact ⟨_, r, .draw n, h⟩

theorem hostWrite_effect (s : State) (addr : Word) (size : AccessSize) (v : Word) :
    ∃ u r, HostEffect s u ∧ hostWrite s addr size v = u.respond r := by
  unfold hostWrite
  split
  next => exact ⟨s, _, .unchanged, rfl⟩
  next r _ => exact ⟨_, _, writeRegister_effect s r v, rfl⟩
  next sp off hsp =>
    obtain ⟨_, _, aligned, inside⟩ := accessTarget_memory_inside hsp
    exact ⟨_, _, .guarded fun idle => .memory idle sp off v aligned inside, rfl⟩

theorem hostAccess_effect (s : State) (a : Access) : ∃ u r, HostEffect s u ∧ hostAccess s a = u.respond r := by
  cases a with
  | read addr size => exact hostRead_effect s addr size
  | write addr size data => exact hostWrite_effect s addr size data

/-! One step. -/

/-- What a step can do once its turn is off the agenda (60_exceptions.md R313). -/
inductive Move (s : State) : State → Prop
  | idle (idle : s.status.busy = false) : Move s s
  | fail (busy : s.status.busy = true) (e : CmdError) : Move s (s.fail e)
  | succeed (busy : s.status.busy = true) (i : Instr) (passed : commandCheck i.op i.engine s = none) :
      Move s (commandBody i s).succeed
  | host {u : State} (effect : HostEffect s u) (r : BusResponse) : Move s (u.respond r)
  | powerOn : Move s (powerOnReset s)

theorem complete_move {s t : State} (busy : s.status.busy = true) (h : complete s = .next t) : Move s t := by
  obtain ⟨e, rfl⟩ | ⟨i, passed, rfl⟩ := complete_cases h
  · exact .fail busy e
  · exact .succeed busy i passed

/-- Every step is a move of the state whose agenda has lost the turn taken. -/
theorem step_move {s t : State} (h : step s = .next t) : ∃ rest, Move { s with agenda := rest } t := by
  obtain ⟨-, idle, rfl⟩ | ⟨-, busy, hc⟩ | ⟨rest, -, idle, rfl⟩ | ⟨rest, -, busy, hc⟩ | ⟨a, rest, -, rfl⟩
    | ⟨rest, -, rfl⟩ := step_cases h
  · exact ⟨t.agenda, .idle idle⟩
  · exact ⟨s.agenda, complete_move busy hc⟩
  · exact ⟨rest, .idle idle⟩
  · exact ⟨rest, complete_move busy hc⟩
  · obtain ⟨u, r, effect, hu⟩ := hostAccess_effect { s with agenda := rest } a
    exact ⟨rest, hu ▸ .host effect r⟩
  · exact ⟨rest, .powerOn⟩

end Sys2Proof.Machine
end

section
/-! SUPPORT. The invariants of STATUS (10_state.md R39) and the produced error codes (60_exceptions.md R300): the seven things
a step can do to STATUS, each of which keeps both. -/

namespace Sys2Proof.Machine

open Sys2Proof

/-- What a step can do to STATUS. -/
inductive StatusMove (t : Status) : Status → Prop
  | keep : StatusMove t t
  | reset : StatusMove t Status.reset
  | issue (idle : t.busy = false) : StatusMove t (statusIssue t)
  | acknowledge (v : Word) : StatusMove t (statusAck v t)
  | hazard (busy : t.busy = true) : StatusMove t (statusHazard t)
  | fail (busy : t.busy = true) (e : CmdError) : StatusMove t (statusFail e t)
  | succeed (busy : t.busy = true) (term : Bool) : StatusMove t (statusSucceed { t with term := term })

theorem HostEffect.statusMove {s u : State} (h : HostEffect s u) : StatusMove s.status u.status := by
  cases h with
  | unchanged | draw | interruptEnable | width | height | payloadLen => exact .keep
  | reset => rw [softReset_status]; exact .reset
  | acknowledge v => exact .acknowledge v
  | drop busy => exact .hazard busy
  | issue idle v => exact .issue idle
  | memory => rw [State.setMem_status]; exact .keep

theorem Move.statusMove {s t : State} (h : Move s t) : StatusMove s.status t.status := by
  cases h with
  | idle => exact .keep
  | fail busy e => exact .fail busy e
  | succeed busy i =>
    obtain ⟨b, hb⟩ := commandBody_status i s
    rw [State.succeed_status, hb]
    exact .succeed busy b
  | host effect r => exact effect.statusMove
  | powerOn => exact .reset

theorem step_statusMove {s t : State} (h : step s = .next t) : StatusMove s.status t.status := by
  obtain ⟨_, hmove⟩ := step_move h
  exact hmove.statusMove

theorem errorCode_ne_zero (e : CmdError) : errorCode e ≠ 0#4 := by
  cases e <;> decide

theorem errorCode_le_four (e : CmdError) : (errorCode e).toNat ≤ 4 := by
  cases e <;> decide

/-- The invariants of R39 do not depend on HAZ, and in flight they fix every other bit. -/
theorem StatusMove.sound {t u : Status} (hmove : StatusMove t u) (h : t.Sound) : u.Sound := by
  obtain ⟨hbusy, hcode, hterm⟩ := h
  cases hmove with
  | keep => exact ⟨hbusy, hcode, hterm⟩
  | reset => decide
  | issue => simp [Status.Sound]
  | acknowledge v =>
    refine ⟨fun hb => ?_, ?_, fun he => hterm ?_⟩
    · obtain ⟨hdone, herr, hzero, hnoterm⟩ := hbusy hb
      simp [hdone, herr, hzero, hnoterm]
    · rw [statusAck_err, statusAck_errcode]
      cases v.getLsbD 2 <;> simp [hcode]
    · exact (Bool.and_eq_true_iff.mp he).1
  | hazard => exact ⟨hbusy, hcode, hterm⟩
  | fail busy e =>
    obtain ⟨-, -, -, hnoterm⟩ := hbusy busy
    simp [Status.Sound, errorCode_ne_zero, hnoterm]
  | succeed busy term =>
    obtain ⟨-, herr, hzero, -⟩ := hbusy busy
    simp [Status.Sound, herr, hzero]

theorem StatusMove.codeProduced {t u : Status} (hmove : StatusMove t u) (h : t.CodeProduced) : u.CodeProduced := by
  cases hmove with
  | keep | hazard | succeed => exact h
  | reset | issue => exact Nat.zero_le 4
  | acknowledge v =>
    rw [Status.CodeProduced, statusAck_errcode]
    split
    · exact Nat.zero_le 4
    · exact h
  | fail _ e => exact errorCode_le_four e

/-- Settles O25, from what a step can do to STATUS. -/
theorem statusInvariantsHold : Obligations.StatusInvariantsHold :=
  ⟨by decide, fun _ _ hsound hstep => (step_statusMove hstep).sound hsound⟩

end Sys2Proof.Machine
end

section
/-! SUPPORT. The memories stay canonical and inside their sizes (20_memory.md R83, R87; 44_validation.md R279): the image of an
EMBED, the bytes of an EXTRACT and the bytes an abort leaves all fit the memory they are written to. -/

namespace Sys2Proof.Machine

open Sys2Proof

/-! How much a command writes. -/

@[simp] theorem length_imageOf (eng : Engine) (s : State) (bits : List Bool) :
    (imageOf eng s bits).length = s.opW * s.opH := by
  cases eng <;> simp [imageOf, lsbImage, dctImage, dwtImage]

/-- No carrier stream has more bits than the carrier has pixels. -/
theorem length_streamOf_le (eng : Engine) (s : State) : (streamOf eng s).length ≤ s.opW * s.opH := by
  cases eng with
  | lsb => simp [streamOf, lsbStream]
  | dct =>
    simp only [streamOf, dctStream, List.length_map, List.length_range]
    exact Nat.mul_le_mul (Nat.div_le_self _ _) (Nat.div_le_self _ _)
  | dwt =>
    simp only [streamOf, dwtStream]
    split
    · exact Nat.zero_le _
    · rw [List.length_map, List.length_range, Nat.mul_comm]
      exact Nat.mul_le_mul (Nat.div_le_self _ _) (Nat.div_le_self _ _)

/-- Each decoded byte takes eight carrier bits, of which the accumulator holds `n` already. -/
theorem eight_mul_length_extractFrom_le (c : List Bool) (acc : Byte) (n cnt : Nat) (out : List Byte) :
    8 * (extractFrom c acc n cnt out).out.length ≤ 8 * out.length + n + c.length := by
  induction c generalizing acc n cnt out with
  | nil => simp only [extractFrom]; omega
  | cons b c ih =>
    rw [extractFrom, List.length_cons]
    split
    next =>
      split
      next => simp only; omega
      next =>
        have hrest := ih 0#8 0 (cnt + 1) (out ++ [shiftIn acc b])
        rw [List.length_append, List.length_singleton] at hrest
        omega
    next =>
      have hrest := ih (shiftIn acc b) (n + 1) (cnt + 1) out
      omega

theorem length_extractStream_le (c : List Bool) : (extractStream c).out.length ≤ c.length / 8 := by
  have hbits := eight_mul_length_extractFrom_le c 0#8 0 0 []
  simp only [extractStream, List.length_nil] at hbits ⊢
  omega

/-! How much a memory holds. -/

theorem configOK_of_commandCheck {op : Op} {eng : Engine} {s : State} (h : commandCheck op eng s = none) :
    configOK op s = true := by
  unfold commandCheck at h
  cases hc : configOK op s with
  | true => rfl
  | false => simp [hc] at h

/-- A carrier whose command passes its checks fits the image memories. -/
theorem carrier_le_imgWords {op : Op} {eng : Engine} {s : State} (h : commandCheck op eng s = none) :
    s.opW * s.opH ≤ s.params.imgWords := by
  have hconfig := configOK_of_commandCheck h
  rw [configOK, Bool.and_eq_true, decide_eq_true_eq] at hconfig
  obtain ⟨⟨-, hw, -, hh⟩, -⟩ := hconfig
  exact Nat.mul_le_mul hw hh

/-- One bit per carrier pixel fits RESULT, as 00_scope.md R8 demands of RESULT_BYTES. -/
theorem carrier_div_eight_le_resultBytes {op : Op} {eng : Engine} {s : State} (hwf : s.params.wf = true)
    (h : commandCheck op eng s = none) : s.opW * s.opH / 8 ≤ s.params.resultBytes := by
  obtain ⟨-, -, -, hresult, -⟩ := Params.wf_bounds hwf
  exact (Nat.div_le_div_right (carrier_le_imgWords h)).trans hresult

theorem size_mod_four {p : Params} (hwf : p.wf = true) (sp : Space) : p.size sp % 4 = 0 := by
  obtain ⟨-, -, hpayload, -, -, hresult⟩ := Params.wf_bounds hwf
  cases sp with
  | payload => exact hpayload
  | result => exact hresult
  | imgIn | imgOut => exact Nat.mul_mod_right 4 _

/-! Sound memories. -/

theorem memorySound_of_empty {s : State} (h : ∀ sp, s.memOf sp = []) : s.MemorySound := by
  intro sp
  rw [h sp]
  exact ⟨List.Pairwise.nil, nofun⟩

/-- Bytes written inside one memory keep all four sound. -/
theorem State.MemorySound.storeBytes {s : State} (h : s.MemorySound) {sp : Space} {a : Nat} {vs : List Byte}
    (hin : a + vs.length ≤ s.params.size sp) : (s.setMem sp (storeBytes (s.memOf sp) a vs)).MemorySound := by
  intro sp'
  rw [State.setMem_memOf, State.setMem_params]
  split
  next e =>
    subst e
    obtain ⟨hwf, hinside⟩ := h sp'
    exact ⟨storeBytes_wf hwf a vs, storeBytes_inside hinside hin⟩
  next => exact h sp'

theorem abortRange_le_size {s : State} (hwf : s.params.wf = true) {sp : Space} {n : Nat}
    (h : abortRange s = some (sp, n)) : n ≤ s.params.size sp := by
  unfold abortRange at h
  split at h
  next => simp at h
  next i _ =>
    split at h
    next => simp at h
    next hpassed =>
      cases hop : i.op with
      | embed =>
        simp only [hop, Option.some.injEq, Prod.mk.injEq] at h
        obtain ⟨rfl, rfl⟩ := h
        exact Nat.mul_le_mul_left 4 (carrier_le_imgWords hpassed)
      | extract =>
        simp only [hop, Option.some.injEq, Prod.mk.injEq] at h
        obtain ⟨rfl, rfl⟩ := h
        exact carrier_div_eight_le_resultBytes hwf hpassed
      | capacity => simp [hop] at h

theorem abortCommand_memorySound {s : State} (hwf : s.params.wf = true) (h : s.MemorySound) :
    (abortCommand s).MemorySound := by
  obtain ⟨-, heq⟩ | ⟨sp, n, hrange, heq⟩ := abortCommand_cases s
  · rwa [heq]
  · rw [heq]
    exact h.storeBytes (by simpa using abortRange_le_size hwf hrange)

theorem softReset_memorySound {s : State} (hwf : s.params.wf = true) (h : s.MemorySound) :
    (softReset s).MemorySound := by
  unfold softReset
  split
  · exact abortCommand_memorySound hwf h
  · exact h

theorem commandBody_memorySound {i : Instr} {s : State} (hwf : s.params.wf = true) (h : s.MemorySound)
    (passed : commandCheck i.op i.engine s = none) : (commandBody i s).MemorySound := by
  unfold commandBody
  split
  next =>
    refine h.storeBytes (sp := .imgOut) ?_
    rw [flatMap_wordBytes_length, length_imageOf, Nat.zero_add]
    exact Nat.mul_le_mul_left 4 (carrier_le_imgWords passed)
  next =>
    refine h.storeBytes (sp := .result) ?_
    have hbytes := (length_extractStream_le (streamOf i.engine s)).trans
      (Nat.div_le_div_right (length_streamOf_le i.engine s))
    rw [Nat.zero_add]
    exact hbytes.trans (carrier_div_eight_le_resultBytes hwf passed)
  next => exact h

/-! What every move keeps. -/

@[simp] theorem abortCommand_params (s : State) : (abortCommand s).params = s.params := by
  obtain ⟨-, heq⟩ | ⟨sp, n, -, heq⟩ := abortCommand_cases s
  · rw [heq]
  · rw [heq]
    exact State.setMem_params s sp _

@[simp] theorem softReset_params (s : State) : (softReset s).params = s.params := by
  unfold softReset
  split <;> simp

theorem HostEffect.params {s u : State} (h : HostEffect s u) : u.params = s.params := by
  cases h with
  | reset => exact softReset_params s
  | memory => exact State.setMem_params _ _ _
  | _ => rfl

/-- No step changes the parameters (00_scope.md R8). -/
theorem Move.params {s t : State} (h : Move s t) : t.params = s.params := by
  cases h with
  | succeed _ i => exact commandBody_params i s
  | host effect => exact effect.params
  | idle | fail | powerOn => rfl

theorem HostEffect.memorySound {s u : State} (heffect : HostEffect s u) (hwf : s.params.wf = true)
    (h : s.MemorySound) : u.MemorySound := by
  cases heffect with
  | reset => exact softReset_memorySound hwf h
  | memory _ sp off v aligned inside =>
    have hsize := size_mod_four hwf sp
    exact h.storeBytes (by rw [wordBytes_length]; omega)
  | _ => exact h

theorem Move.memorySound {s t : State} (hmove : Move s t) (hwf : s.params.wf = true) (h : s.MemorySound) :
    t.MemorySound := by
  cases hmove with
  | idle | fail => exact h
  | succeed _ i passed => exact commandBody_memorySound hwf h passed
  | host effect => exact effect.memorySound hwf h
  | powerOn => exact memorySound_of_empty fun sp => by cases sp <;> rfl

theorem Move.sound {s t : State} (hmove : Move s t) (h : s.Sound) : t.Sound := by
  obtain ⟨hwf, hstatus, hcode, hmem⟩ := h
  exact ⟨hmove.params ▸ hwf, hmove.statusMove.sound hstatus, hmove.statusMove.codeProduced hcode,
    hmove.memorySound hwf hmem⟩

/-! The obligations. -/

/-- Settles O26: a step is a move, and every move keeps each part of soundness. -/
theorem stepKeepsSound : Obligations.StepKeepsSound := by
  intro s t hsound hstep
  obtain ⟨_, hmove⟩ := step_move hstep
  exact hmove.sound hsound

/-- Settles O24: after reset no memory lists a byte. -/
theorem resetIsSound : Obligations.ResetIsSound :=
  ⟨by decide, by decide, by decide, memorySound_of_empty fun sp => by cases sp <;> rfl⟩

end Sys2Proof.Machine
end

section
/-! SUPPORT. The inputs of a command in flight (10_state.md R51): no move that leaves BUSY = 1 changes one of them, so no run
through such moves does. -/

namespace Sys2Proof.Machine

open Sys2Proof

/-- What a command reads (30_encoding.md R113) is the same in two states. -/
structure SameInputs (s t : State) : Prop where
  cmdLast : t.cmdLast = s.cmdLast
  width : t.width = s.width
  height : t.height = s.height
  payloadLen : t.payloadLen = s.payloadLen
  payload : t.payload = s.payload
  imgIn : t.imgIn = s.imgIn
  epoch : t.epoch = s.epoch

theorem SameInputs.rfl {s : State} : SameInputs s s := by constructor <;> rfl

theorem SameInputs.trans {s t u : State} (h : SameInputs s t) (h' : SameInputs t u) : SameInputs s u where
  cmdLast := h'.cmdLast.trans h.cmdLast
  width := h'.width.trans h.width
  height := h'.height.trans h.height
  payloadLen := h'.payloadLen.trans h.payloadLen
  payload := h'.payload.trans h.payload
  imgIn := h'.imgIn.trans h.imgIn
  epoch := h'.epoch.trans h.epoch

/-- While BUSY = 1 the host can change an input only by a soft reset, which clears BUSY. -/
theorem HostEffect.sameInputs {s u : State} (h : HostEffect s u) (hs : s.status.busy = true)
    (hu : u.status.busy = true) : SameInputs s u := by
  cases h with
  | unchanged | draw | interruptEnable | acknowledge | drop => constructor <;> rfl
  | reset => simp [softReset_status, Status.reset] at hu
  | issue idle | width idle | height idle | payloadLen idle | memory idle => simp [hs] at idle

/-- A completion and a power-on clear BUSY, so what is left while BUSY stays 1 is the host. -/
theorem Move.sameInputs {s t : State} (h : Move s t) (hs : s.status.busy = true) (ht : t.status.busy = true) :
    SameInputs s t := by
  cases h with
  | idle => exact .rfl
  | fail | succeed | powerOn => exact absurd ht Bool.false_ne_true
  | host effect r => exact (effect.sameInputs hs ht).trans (by constructor <;> rfl)

theorem step_sameInputs {s t : State} (h : step s = .next t) (hs : s.status.busy = true)
    (ht : t.status.busy = true) : SameInputs s t := by
  obtain ⟨_, hmove⟩ := step_move h
  exact .trans (by constructor <;> rfl) (hmove.sameInputs hs ht)

/-! Runs of a machine. -/

theorem run_succ_of_step {M : Host.Core} {s t : M.State} (h : M.step s = .next t) (k : Nat) :
    M.run (k + 1) s = M.run k t := by
  rw [Host.Core.run, h]

theorem run_one {M : Host.Core} (s : M.State) : M.run 1 s = M.step s := by
  rw [Host.Core.run]
  cases M.step s <;> rfl

/-- The command is in flight through all of the first `n` steps. -/
def BusyThrough (n : Nat) (s : State) : Prop :=
  ∀ k, k ≤ n → ∃ u : State, Host.Core.run core k s = .next u ∧ u.status.busy = true

theorem BusyThrough.busy {n : Nat} {s : State} (h : BusyThrough n s) : s.status.busy = true := by
  obtain ⟨u, hu, hbusy⟩ := h 0 (Nat.zero_le n)
  obtain rfl : s = u := Host.Outcome.next.inj hu
  exact hbusy

theorem BusyThrough.exists_step {n : Nat} {s : State} (h : BusyThrough (n + 1) s) :
    ∃ u, step s = .next u ∧ BusyThrough n u := by
  obtain ⟨u, hrun, -⟩ := h 1 (by omega)
  have hstep : step s = .next u := (run_one (M := core) s).symm.trans hrun
  refine ⟨u, hstep, fun k hk => ?_⟩
  obtain ⟨v, hv, hbusy⟩ := h (k + 1) (by omega)
  exact ⟨v, (run_succ_of_step (M := core) hstep k).symm.trans hv, hbusy⟩

theorem run_sameInputs {n : Nat} {s t : State} (hbusy : BusyThrough n s)
    (hrun : Host.Core.run core n s = .next t) : SameInputs s t := by
  induction n generalizing s with
  | zero =>
    obtain rfl : s = t := Host.Outcome.next.inj hrun
    exact .rfl
  | succ n ih =>
    obtain ⟨u, hstep, hbusy'⟩ := hbusy.exists_step
    have hrest := (run_succ_of_step (M := core) hstep n).symm.trans hrun
    exact (step_sameInputs hstep hbusy.busy hbusy'.busy).trans (ih hbusy' hrest)

/-- Settles O27, by induction on the number of steps. -/
theorem inputsFixedFromIssueToCompletion : Obligations.InputsFixedFromIssueToCompletion := by
  intro n s t hbusy hrun
  obtain ⟨hcmd, hwidth, hheight, hlen, hpayload, himg, hepoch⟩ := run_sameInputs hbusy hrun
  exact ⟨hcmd, hwidth, hheight, hlen, readByte_congr hpayload hepoch, readByte_congr himg hepoch⟩

end Sys2Proof.Machine
end

section
/-! SUPPORT. Host accesses to the register window (10_state.md section 2): a word access to one of its aligned offsets reaches
the register of that offset, so a step that serves it reads or writes that register and nothing else. -/

namespace Sys2Proof.Machine

open Sys2Proof

theorem step_hostAccess {s : State} {a : Access} {rest : List Turn} (h : s.agenda = .host a :: rest) :
    step s = .next (hostAccess { s with agenda := rest } a) := by
  unfold step
  rw [h]

/-- The address of a register (10_state.md section 2): a word of the register window, at the register's offset. -/
abbrev RegisterAddress (addr : Word) (r : Register) : Prop :=
  addr.toNat % 4 = 0 ∧ addr.toNat < registerWindow ∧ registerAt addr.toNat = r

section
variable {s : State} {rest : List Turn} {addr : Word} {r : Register} (hr : RegisterAddress addr r)
include hr

theorem RegisterAddress.accessTarget (p : Params) : accessTarget p addr .word = some (.register r) := by
  obtain ⟨haligned, hwindow, rfl⟩ := hr
  rw [Machine.accessTarget, if_pos ⟨rfl, haligned⟩, targetOf, if_pos hwindow]

theorem step_readRegister (h : s.agenda = .host (.read addr .word) :: rest) :
    step s = .next ({ s with agenda := rest }.respond (.readData (readRegister s r))) := by
  rw [step_hostAccess h, hostAccess, hostRead, hr.accessTarget]
  cases r <;> rfl

theorem step_writeRegister {v : Word} (h : s.agenda = .host (.write addr .word v) :: rest) :
    step s = .next ((writeRegister { s with agenda := rest } r v).respond .writeDone) := by
  rw [step_hostAccess h, hostAccess, hostWrite, hr.accessTarget]

end

/-! The STATUS word. -/

theorem getLsbD_flagBit (b : Bool) {k : Nat} (hk : k < 32) (n : Nat) :
    (flagBit b k).getLsbD n = (decide (n = k) && b) := by
  cases b with
  | false => simp [flagBit]
  | true =>
    rw [flagBit, if_pos rfl, BitVec.getLsbD_shiftLeft, BitVec.getLsbD_one, Bool.eq_iff_iff]
    simp only [Bool.and_eq_true, Bool.not_eq_true', decide_eq_true_eq, decide_eq_false_iff_not, and_true]
    omega

/-- ERRCODE takes bits 11:8 of the STATUS word. -/
theorem getLsbD_errcodeField (c : BitVec 4) (n : Nat) :
    (c.setWidth 32 <<< 8).getLsbD n = (decide (8 ≤ n ∧ n < 12) && c.getLsbD (n - 8)) := by
  rw [BitVec.getLsbD_shiftLeft, BitVec.getLsbD_setWidth]
  by_cases hn : n < 12
  · grind
  · rw [BitVec.getLsbD_of_ge c (n - 8) (by omega), Bool.and_false, Bool.and_false, Bool.and_false]

/-- Settles O8: the fields of the STATUS word stand on different bits. -/
theorem statusWordLayout : Obligations.StatusWordLayout := by
  intro t n
  rw [statusWord]
  simp only [BitVec.getLsbD_or, getLsbD_errcodeField, getLsbD_flagBit _ (show 0 < 32 by decide),
    getLsbD_flagBit _ (show 1 < 32 by decide), getLsbD_flagBit _ (show 2 < 32 by decide),
    getLsbD_flagBit _ (show 3 < 32 by decide), getLsbD_flagBit _ (show 4 < 32 by decide)]
  split_ifs <;> simp_all

/-! Reads. -/

theorem flagBit_zero (b : Bool) : flagBit b 0 = if b then 1#32 else 0#32 := by
  cases b <;> rfl

/-- Settles O7: the register map, offset by offset, with what each register reads as. -/
theorem registerReads : Obligations.RegisterReads := by
  intro s rest addr data hmem hagenda
  have hregister : ∃ r, RegisterAddress addr r ∧ readRegister s r = data := by
    simp only [List.mem_cons, List.not_mem_nil, or_false, Prod.mk.injEq] at hmem
    rcases hmem with ⟨rfl, rfl⟩ | ⟨rfl, rfl⟩ | ⟨rfl, rfl⟩ | ⟨rfl, rfl⟩ | ⟨rfl, rfl⟩ | ⟨rfl, rfl⟩ | ⟨rfl, rfl⟩
      | ⟨rfl, rfl⟩ | ⟨rfl, rfl⟩ | ⟨rfl, rfl⟩ | hreserved
    · exact ⟨.id, by decide, rfl⟩
    · exact ⟨.ctrl, by decide, flagBit_zero s.ie⟩
    · exact ⟨.cmd, by decide, rfl⟩
    · exact ⟨.status, by decide, rfl⟩
    · exact ⟨.width, by decide, (BitVec.ofNat_toNat 32 s.width).symm⟩
    · exact ⟨.height, by decide, (BitVec.ofNat_toNat 32 s.height).symm⟩
    · exact ⟨.payloadLen, by decide, rfl⟩
    · exact ⟨.resultLen, by decide, rfl⟩
    · exact ⟨.bitcount, by decide, rfl⟩
    · exact ⟨.capacity, by decide, rfl⟩
    · rcases hreserved with ⟨rfl, rfl⟩ | ⟨rfl, rfl⟩ | ⟨rfl, rfl⟩ | ⟨rfl, rfl⟩ | ⟨rfl, rfl⟩ | ⟨rfl, rfl⟩ <;>
        exact ⟨.reserved, by decide, rfl⟩
  obtain ⟨r, hr, rfl⟩ := hregister
  exact step_readRegister hr hagenda

/-! Writes. -/

theorem getLsbD_eq_decide_div (v : Word) (n : Nat) : v.getLsbD n = decide (v.toNat / 2 ^ n % 2 = 1) :=
  Nat.testBit_eq_decide_div_mod_eq

/-- A flag that a bit of the written value clears (10_state.md R38). -/
theorem clearedBy_getLsbD (b : Bool) (v : Word) (n : Nat) :
    (b && !v.getLsbD n) = if v.toNat / 2 ^ n % 2 = 1 then false else b := by
  rw [getLsbD_eq_decide_div]
  split <;> simp [*]

/-- Settles O9: the write acts on STATUS alone, where each flag meets its own bit of the value. -/
theorem statusWriteClearsBits : Obligations.StatusWriteClearsBits := by
  intro s rest v hagenda
  refine ⟨_, step_writeRegister (r := .status) (by decide) hagenda, rfl, rfl, rfl, clearedBy_getLsbD s.status.done v 1,
    clearedBy_getLsbD s.status.err v 2, ?_, clearedBy_getLsbD s.status.haz v 3⟩
  show (if v.getLsbD 2 = true then 0#4 else s.status.errcode) = _
  rw [getLsbD_eq_decide_div]
  exact if_congr decide_eq_true_iff rfl rfl

/-- Settles O12: the register reached is one whose write does nothing. -/
theorem readOnlyRegistersIgnoreWrites : Obligations.ReadOnlyRegistersIgnoreWrites := by
  intro s rest addr v hmem hagenda
  have hregister : ∃ r, RegisterAddress addr r ∧ ∀ s, writeRegister s r v = s := by
    simp only [List.mem_cons, List.not_mem_nil, or_false] at hmem
    rcases hmem with rfl | rfl | rfl | rfl | hreserved
    · exact ⟨.id, by decide, fun _ => rfl⟩
    · exact ⟨.resultLen, by decide, fun _ => rfl⟩
    · exact ⟨.bitcount, by decide, fun _ => rfl⟩
    · exact ⟨.capacity, by decide, fun _ => rfl⟩
    · rcases hreserved with rfl | rfl | rfl | rfl | rfl | rfl <;> exact ⟨.reserved, by decide, fun _ => rfl⟩
  obtain ⟨r, hr, hignored⟩ := hregister
  rw [step_writeRegister hr hagenda, hignored]
  rfl

section
variable {s : State} (idle : s.status.busy = false) (v : Word)
include idle

theorem writeRegister_width_of_idle : writeRegister s .width v = { s with width := v.extractLsb' 0 16 } := by
  simp [writeRegister, idle]

theorem writeRegister_height_of_idle : writeRegister s .height v = { s with height := v.extractLsb' 0 16 } := by
  simp [writeRegister, idle]

theorem writeRegister_payloadLen_of_idle : writeRegister s .payloadLen v = { s with payloadLen := v } := by
  simp [writeRegister, idle]

end

/-- WIDTH and HEIGHT store the low half of a word (10_state.md R40, R41). -/
theorem toNat_lowHalf (v : Word) : (v.extractLsb' 0 16).toNat = v.toNat % 65536 := by
  simp

/-- The reserved half of WIDTH and HEIGHT reads back as 0 (10_state.md R40, R41). -/
theorem toNat_setWidth_lowHalf (v : Word) : ((v.extractLsb' 0 16).setWidth 32).toNat = v.toNat % 65536 := by
  rw [BitVec.toNat_setWidth_of_le (by decide), toNat_lowHalf]

/-- Settles O13: with BUSY = 0 the write is not dropped, and a read widens the stored half by zeros. -/
theorem operandRegisterWrites : Obligations.OperandRegisterWrites := by
  intro s rest v idle
  refine ⟨fun hagenda => ?_, fun hagenda => ?_, fun hagenda => ?_⟩
  · have hstep := step_writeRegister (r := .width) (by decide) hagenda
    rw [writeRegister_width_of_idle (s := { s with agenda := rest }) idle] at hstep
    exact ⟨_, hstep, rfl, toNat_lowHalf v, toNat_setWidth_lowHalf v⟩
  · have hstep := step_writeRegister (r := .height) (by decide) hagenda
    rw [writeRegister_height_of_idle (s := { s with agenda := rest }) idle] at hstep
    exact ⟨_, hstep, rfl, toNat_lowHalf v, toNat_setWidth_lowHalf v⟩
  · have hstep := step_writeRegister (r := .payloadLen) (by decide) hagenda
    rw [writeRegister_payloadLen_of_idle (s := { s with agenda := rest }) idle] at hstep
    exact hstep

end Sys2Proof.Machine
end

section
/-! SUPPORT. The four memories as the host sees them (20_memory.md): the words they are made of, the regions of the address map,
and what a step does that serves a host access to a memory or to no target at all. -/

namespace Sys2Proof.Machine

open Sys2Proof

/-! Words. -/

/-- A byte appended below a value is its least significant digit in base 256. -/
theorem toNat_append_byte {n : Nat} (x : BitVec n) (b : Byte) : (x ++ b).toNat = 256 * x.toNat + b.toNat := by
  rw [BitVec.toNat_append, ← Nat.shiftLeft_add_eq_or_of_lt b.isLt, Nat.shiftLeft_eq, Nat.mul_comm]

/-- Settles O17: a word is its four bytes as digits in base 256. -/
theorem wordsAreLittleEndian : Obligations.WordsAreLittleEndian := by
  intro s sp a
  simp only [readWord, toNat_append_byte]
  omega

/-! The address map. -/

/-- The length of the window of each region (20_memory.md R84). -/
def windowSize : Space → Nat
  | .payload | .result => 0x00100000
  | .imgIn | .imgOut => 0x01000000

theorem size_le_windowSize {p : Params} (hwf : p.wf = true) (sp : Space) : p.size sp ≤ windowSize sp := by
  obtain ⟨himage, hpayload, -, -, hresult, -⟩ := Params.wf_bounds hwf
  cases sp with
  | payload => exact hpayload
  | result => exact hresult
  | imgIn | imgOut => exact Nat.mul_le_mul_left 4 himage

/-- A window ends before every window of a higher base begins. -/
theorem window_end_le_base {sp sp' : Space} (h : regionBase sp < regionBase sp') :
    regionBase sp + windowSize sp ≤ regionBase sp' := by
  revert h
  cases sp <;> cases sp' <;> decide

theorem regionBase_injective {sp sp' : Space} (h : regionBase sp = regionBase sp') : sp = sp' := by
  revert h
  cases sp <;> cases sp' <;> decide

theorem registerWindow_le_base (sp : Space) : registerWindow ≤ regionBase sp := by
  cases sp <;> decide

/-- The region of the lower base ends before an address of the other. -/
theorem not_inRegion_of_base_lt {p : Params} (hwf : p.wf = true) {sp sp' : Space} {a : Nat}
    (hbase : regionBase sp < regionBase sp') (h' : inRegion p sp' a) : ¬ inRegion p sp a := by
  rintro ⟨-, hend⟩
  obtain ⟨hbegin, -⟩ := h'
  have hsize := size_le_windowSize hwf sp
  have hwindow := window_end_le_base hbase
  omega

theorem inRegion_unique {p : Params} (hwf : p.wf = true) {sp sp' : Space} {a : Nat} (h : inRegion p sp a)
    (h' : inRegion p sp' a) : sp = sp' := by
  obtain hlt | heq | hgt := Nat.lt_trichotomy (regionBase sp) (regionBase sp')
  · exact absurd h (not_inRegion_of_base_lt hwf hlt h')
  · exact regionBase_injective heq
  · exact absurd h' (not_inRegion_of_base_lt hwf hgt h)

/-- Settles O16: the sizes fit the windows, and the windows follow one another. -/
theorem regionsDoNotOverlap : Obligations.RegionsDoNotOverlap := by
  intro p hwf
  have hsize := size_le_windowSize hwf
  refine ⟨⟨hsize .payload, hsize .result, hsize .imgIn, hsize .imgOut⟩, fun a => ⟨fun _ _ => inRegion_unique hwf, ?_⟩⟩
  rintro hregister sp ⟨hbegin, -⟩
  exact absurd ((registerWindow_le_base sp).trans hbegin) (Nat.not_le.2 hregister)

/-! Bus errors. -/

/-- The unmapped addresses: those past the register window and in no region (20_memory.md R81, R83). -/
theorem targetOf_eq_none_iff (p : Params) (a : Nat) :
    targetOf p a = none ↔ registerWindow ≤ a ∧ ∀ sp, ¬ inRegion p sp a := by
  constructor
  · intro h
    unfold targetOf at h
    split_ifs at h with hregister hpayload hresult himgIn himgOut
    exact ⟨Nat.not_lt.1 hregister, fun sp => by cases sp <;> assumption⟩
  · rintro ⟨hregister, hregion⟩
    rw [targetOf, if_neg (Nat.not_lt.2 hregister), if_neg (hregion _), if_neg (hregion _), if_neg (hregion _),
      if_neg (hregion _)]

/-- The three causes of a bus error (20_memory.md R90, R91). -/
theorem accessTarget_eq_none_iff (p : Params) (addr : Word) (size : AccessSize) :
    accessTarget p addr size = none ↔
      size ≠ .word ∨ addr.toNat % 4 ≠ 0 ∨ registerWindow ≤ addr.toNat ∧ ∀ sp, ¬ inRegion p sp addr.toNat := by
  rw [← targetOf_eq_none_iff, accessTarget]
  split
  next h => simp [h]
  next h => exact iff_of_true rfl (or_assoc.1 (.inl (Decidable.not_and_iff_or_not.1 h)))

section
variable {s : State} {rest : List Turn} {addr : Word}

theorem step_readBusError {size : AccessSize} (htarget : accessTarget s.params addr size = none)
    (h : s.agenda = .host (.read addr size) :: rest) :
    step s = .next ({ s with agenda := rest }.respond (.readBusError 0#32)) := by
  rw [step_hostAccess h, hostAccess, hostRead, htarget]

theorem step_writeBusError {size : AccessSize} {v : Word} (htarget : accessTarget s.params addr size = none)
    (h : s.agenda = .host (.write addr size v) :: rest) :
    step s = .next ({ s with agenda := rest }.respond .writeBusError) := by
  rw [step_hostAccess h, hostAccess, hostWrite, htarget]

/-! Words of a memory. -/

variable {sp : Space} {offset : Nat} (htarget : accessTarget s.params addr .word = some (.memory sp offset))
include htarget

theorem step_readMemory (hstable : (s.status.busy && isOutput sp) = false)
    (h : s.agenda = .host (.read addr .word) :: rest) :
    step s = .next ({ s with agenda := rest }.respond (.readData (readWord s sp offset))) := by
  rw [step_hostAccess h, hostAccess, hostRead, htarget]
  simp only [hstable]
  rfl

theorem step_readMemory_draw (hunstable : (s.status.busy && isOutput sp) = true)
    (h : s.agenda = .host (.read addr .word) :: rest) :
    step s = .next
      { s with agenda := rest, response := some (.readData (Config.busyReadWord s.draws)), draws := s.draws + 1 } := by
  rw [step_hostAccess h, hostAccess, hostRead, htarget]
  simp only [hunstable]
  rfl

theorem step_writeMemory {v : Word} (idle : s.status.busy = false) (h : s.agenda = .host (.write addr .word v) :: rest) :
    step s = .next (({ s with agenda := rest }.setMem sp (storeWord (s.memOf sp) offset v)).respond .writeDone) := by
  rw [step_hostAccess h, hostAccess, hostWrite, htarget]
  simp only [writeMemory, idle]
  rfl

end

/-- Recording a response changes no word. -/
@[simp] theorem readWord_respond (s : State) (r : BusResponse) (sp : Space) (a : Nat) :
    readWord (s.respond r) sp a = readWord s sp a :=
  readWord_congr fun _ _ => readByte_respond s r sp _

/-- Settles O15: an access with one of the three causes has no target, and then only the response is written. -/
theorem busErrorChangesNothing : Obligations.BusErrorChangesNothing := by
  intro s rest addr v size hcause
  have htarget : accessTarget s.params addr size = none := by
    refine (accessTarget_eq_none_iff _ _ _).2 (hcause.imp_right (Or.imp_right ?_))
    rintro ⟨hregister, hpayload, hresult, himgIn, himgOut⟩
    refine ⟨hregister, fun sp => ?_⟩
    cases sp with
    | payload => exact hpayload
    | result => exact hresult
    | imgIn => exact himgIn
    | imgOut => exact himgOut
  exact ⟨fun hagenda => ⟨_, step_readBusError htarget hagenda, rfl, rfl⟩,
    fun hagenda => ⟨_, step_writeBusError htarget hagenda, rfl, rfl⟩⟩

/-- Settles O18: the access reaches the word, which is stored since BUSY = 0. -/
theorem memoryWordWriteStores : Obligations.MemoryWordWriteStores := by
  intro s rest sp offset addr v hwf idle haligned hinside haddr hagenda
  have htarget := accessTarget_memory hwf haligned hinside haddr
  refine ⟨_, step_writeMemory htarget idle hagenda, ?_, fun sp' a houtside => ?_, ?_⟩
  · rw [readWord_respond]
    exact readWord_storeWord { s with agenda := rest } sp offset v
  · rw [readByte_respond]
    exact readByte_storeWord_other { s with agenda := rest } sp sp' offset a v houtside
  · cases sp <;> rfl

/-- Settles O19: the access reaches the word, which a command in flight may be writing only in IMG_OUT and RESULT. -/
theorem memoryWordReads : Obligations.MemoryWordReads := by
  intro s rest sp offset addr hwf haligned hinside haddr hagenda
  have htarget := accessTarget_memory hwf haligned hinside haddr
  constructor
  · intro hstable
    refine step_readMemory htarget ?_ hagenda
    obtain idle | rfl | rfl := hstable
    · rw [idle, Bool.false_and]
    · exact Bool.and_false _
    · exact Bool.and_false _
  · rintro ⟨busy, hout⟩
    refine ⟨_, step_readMemory_draw htarget ?_ hagenda⟩
    obtain rfl | rfl := hout <;> rw [busy] <;> rfl

end Sys2Proof.Machine
end

section
/-! SUPPORT. The memories a command writes (20_memory.md R94, 44_validation.md R281): an EMBED writes IMG_OUT up to the end of
its image, an EXTRACT writes RESULT, and nothing else of the four memories changes. -/

namespace Sys2Proof.Machine

open Sys2Proof

/-- The memory an operation writes (20_memory.md R94). -/
def outputOf : Op → Option Space
  | .embed => some .imgOut
  | .extract => some .result
  | .capacity => none

@[simp] theorem outputOf_eq_imgOut_iff (op : Op) : outputOf op = some .imgOut ↔ op = .embed := by
  cases op <;> decide

@[simp] theorem outputOf_eq_result_iff (op : Op) : outputOf op = some .result ↔ op = .extract := by
  cases op <;> decide

theorem readByte_commandBody_of_not_output {i : Instr} {sp : Space} (h : outputOf i.op ≠ some sp) (s : State) (a : Nat) :
    readByte (commandBody i s) sp a = readByte s sp a := by
  unfold commandBody
  cases hop : i.op with
  | embed =>
    cases sp with
    | imgOut => exact absurd (congrArg outputOf hop) h
    | payload | result | imgIn => rfl
  | extract =>
    cases sp with
    | result => exact absurd (congrArg outputOf hop) h
    | payload | imgIn | imgOut => rfl
  | capacity => cases sp <;> rfl

/-- A byte past the stored image reads as before (20_memory.md R87). -/
theorem readByte_storeImage_past (s : State) {ws : List Word} {a : Nat} (h : 4 * ws.length ≤ a) :
    readByte (s.storeImage ws) .imgOut a = readByte s .imgOut a := by
  have hbyte := readByte_storeImage s ws (a / 4) (a % 4) (Nat.mod_lt _ (by decide))
  rwa [Nat.div_add_mod, List.getElem?_eq_none (by omega)] at hbyte

theorem readByte_commandBody_past_image (i : Instr) (s : State) {a : Nat} (h : 4 * (s.opW * s.opH) ≤ a) :
    readByte (commandBody i s) .imgOut a = readByte s .imgOut a := by
  by_cases hop : i.op = .embed
  · rw [commandBody, hop]
    exact readByte_storeImage_past s (by rwa [length_imageOf])
  · exact readByte_commandBody_of_not_output (by simpa using hop) s a

/-- A byte the body of a command leaves alone reads as before the command, which else writes registers only. -/
theorem readByte_exec {i : Instr} {s t : State} (h : exec i s = .next t) {sp : Space} {a : Nat}
    (hbody : readByte (commandBody i s) sp a = readByte s sp a) : readByte t sp a = readByte s sp a := by
  rw [exec_eq_body] at h
  obtain rfl := Host.Outcome.next.inj h
  split
  · rfl
  · exact hbody

theorem sameBytes_exec {i : Instr} {s t : State} (h : exec i s = .next t) {sp : Space} (hsp : outputOf i.op ≠ some sp) :
    SameBytes sp s t :=
  fun a => readByte_exec h (readByte_commandBody_of_not_output hsp s a)

/-- Settles O44, from the one memory each operation writes. -/
theorem engineWritesOutputsOnly : Obligations.EngineWritesOutputsOnly := by
  intro i s t h
  refine ⟨sameBytes_exec h ?_, sameBytes_exec h ?_, fun hop => sameBytes_exec h (by simpa using hop),
    fun hop => sameBytes_exec h (by simpa using hop),
    fun a ha => readByte_exec h (readByte_commandBody_past_image i s ha)⟩ <;>
    cases i.op <;> nofun

end Sys2Proof.Machine
end

section
/-! SUPPORT. The family of 30_encoding.md: the fields of a word as digits, the codes of an operation and an engine, and the
decoder as the inverse of the encoder. -/

namespace Sys2Proof

/-! ## The fields as digits -/

theorem toNat_opField (v : Word) : (opField v).toNat = v.toNat % 16 := by
  simp [opField, BitVec.extractLsb'_toNat]

theorem toNat_engField (v : Word) : (engField v).toNat = v.toNat / 16 % 4 := by
  simp [engField, BitVec.extractLsb'_toNat, Nat.shiftRight_eq_div_pow]

theorem toNat_rsvField (v : Word) : (rsvField v).toNat = v.toNat / 64 := by
  have hv := v.isLt
  simp only [rsvField, BitVec.extractLsb'_toNat, Nat.shiftRight_eq_div_pow]
  omega

theorem rsvField_eq_zero_iff (v : Word) : rsvField v = 0#26 ↔ v.toNat / 64 = 0 := by
  rw [← BitVec.toNat_inj, toNat_rsvField]
  rfl

/-! ## The codes of R111 and R112 -/

/-- The OP field of an operation (30_encoding.md R112). -/
def opCode : Op → Nat
  | .embed => 1
  | .extract => 2
  | .capacity => 3

/-- The ENG field of an engine (30_encoding.md R111). -/
def engineCode : Engine → Nat
  | .lsb => 0
  | .dct => 1
  | .dwt => 2

theorem opCode_inj {o o' : Op} : opCode o = opCode o' ↔ o = o' := by
  cases o <;> cases o' <;> decide

theorem engineCode_inj {e e' : Engine} : engineCode e = engineCode e' ↔ e = e' := by
  cases e <;> cases e' <;> decide

theorem opCode_lt (o : Op) : opCode o < 16 := by
  cases o <;> decide

theorem engineCode_lt (e : Engine) : engineCode e < 4 := by
  cases e <;> decide

theorem exists_opCode_iff (n : Nat) : (∃ o, n = opCode o) ↔ n = 1 ∨ n = 2 ∨ n = 3 := by
  constructor
  · rintro ⟨_ | _ | _, rfl⟩ <;> decide
  · rintro (rfl | rfl | rfl)
    exacts [⟨.embed, rfl⟩, ⟨.extract, rfl⟩, ⟨.capacity, rfl⟩]

theorem exists_engineCode_iff (n : Nat) : (∃ e, n = engineCode e) ↔ n = 0 ∨ n = 1 ∨ n = 2 := by
  constructor
  · rintro ⟨_ | _ | _, rfl⟩ <;> decide
  · rintro (rfl | rfl | rfl)
    exacts [⟨.lsb, rfl⟩, ⟨.dct, rfl⟩, ⟨.dwt, rfl⟩]

theorem decodeOp_eq_some_iff : ∀ (b : BitVec 4) (o : Op), decodeOp b = some o ↔ b.toNat = opCode o
  | b, .embed | b, .extract | b, .capacity => by revert b; decide

theorem decodeEngine_eq_some_iff : ∀ (b : BitVec 2) (e : Engine), decodeEngine b = some e ↔ b.toNat = engineCode e
  | b, .lsb | b, .dct | b, .dwt => by revert b; decide

/-! ## A command is its operation and its engine -/

theorem instrOf_op_engine (i : Instr) : instrOf i.op i.engine = i := by
  cases i <;> rfl

@[simp] theorem op_instrOf (o : Op) (e : Engine) : (instrOf o e).op = o := by
  cases o <;> cases e <;> rfl

@[simp] theorem engine_instrOf (o : Op) (e : Engine) : (instrOf o e).engine = e := by
  cases o <;> cases e <;> rfl

theorem instrOf_eq_iff {o : Op} {e : Engine} {i : Instr} : instrOf o e = i ↔ e = i.engine ∧ o = i.op := by
  constructor
  · rintro rfl
    simp
  · rintro ⟨rfl, rfl⟩
    exact instrOf_op_engine i

/-! ## The decoder -/

/-- A word decodes to a command when RSV is 0 and the other two fields decode to the command's engine and operation. -/
theorem decode_eq_ok_iff_decoded_fields {v : Word} {i : Instr} :
    decode v = .ok i ↔
      rsvField v = 0#26 ∧ decodeEngine (engField v) = some i.engine ∧ decodeOp (opField v) = some i.op := by
  unfold decode
  split
  next hrsv => simp [hrsv]
  next hrsv =>
    split
    next heng => simp [heng]
    next e heng =>
      split
      next hop => simp [hop]
      next o hop => simpa [heng, hop, instrOf_eq_iff] using fun _ _ => not_not.mp hrsv

/-- The digits of a word that decodes to a command (30_encoding.md R110 to R112). -/
theorem decode_eq_ok_iff_digits {v : Word} {i : Instr} :
    decode v = .ok i ↔
      v.toNat % 16 = opCode i.op ∧ v.toNat / 16 % 4 = engineCode i.engine ∧ v.toNat / 64 = 0 := by
  rw [decode_eq_ok_iff_decoded_fields, rsvField_eq_zero_iff, decodeEngine_eq_some_iff, decodeOp_eq_some_iff,
    toNat_engField, toNat_opField]
  tauto

theorem toNat_encode (i : Instr) : (encode i).toNat = 16 * engineCode i.engine + opCode i.op := by
  cases i <;> rfl

/-- The decoder matches all 32 bits against the command's word (30_encoding.md R115, R117). -/
theorem decode_eq_ok_iff {v : Word} {i : Instr} : decode v = .ok i ↔ v = encode i := by
  have hop := opCode_lt i.op
  have heng := engineCode_lt i.engine
  rw [decode_eq_ok_iff_digits, ← BitVec.toNat_inj, toNat_encode]
  omega

theorem decode_encode (i : Instr) : decode (encode i) = .ok i :=
  decode_eq_ok_iff.mpr rfl

/-- Settles O1: to decode to a command is to be its word. -/
theorem decodeInvertsEncode : Obligations.DecodeInvertsEncode := by
  refine ⟨decode_encode, fun v i => decode_eq_ok_iff.mp, fun v hv => ?_, rfl⟩
  cases hdec : decode v with
  | error e => exact ⟨e, rfl⟩
  | ok i => exact absurd (decode_eq_ok_iff.mp hdec) (hv i)

theorem exists_decode_iff (v : Word) :
    (∃ i, decode v = .ok i) ↔
      (∃ o, v.toNat % 16 = opCode o) ∧ (∃ e, v.toNat / 16 % 4 = engineCode e) ∧ v.toNat / 64 = 0 := by
  simp only [decode_eq_ok_iff_digits]
  constructor
  · rintro ⟨i, hop, heng, hrsv⟩
    exact ⟨⟨_, hop⟩, ⟨_, heng⟩, hrsv⟩
  · rintro ⟨⟨o, hop⟩, ⟨e, heng⟩, hrsv⟩
    exact ⟨instrOf o e, by simpa using hop, by simpa using heng, hrsv⟩

theorem op_eq_iff_of_decode {v : Word} {i : Instr} (h : decode v = .ok i) (o : Op) :
    i.op = o ↔ v.toNat % 16 = opCode o := by
  obtain ⟨hop, -, -⟩ := decode_eq_ok_iff_digits.mp h
  rw [hop, opCode_inj]

theorem engine_eq_iff_of_decode {v : Word} {i : Instr} (h : decode v = .ok i) (e : Engine) :
    i.engine = e ↔ v.toNat / 16 % 4 = engineCode e := by
  obtain ⟨-, heng, -⟩ := decode_eq_ok_iff_digits.mp h
  rw [heng, engineCode_inj]

/-- Settles O2: the legal digits are the codes, and a decoded word has the codes of its operation and engine. -/
theorem legalFieldsDecode : Obligations.LegalFieldsDecode := by
  refine fun v => ⟨?_, fun i h => ?_⟩
  · rw [exists_decode_iff, exists_opCode_iff, exists_engineCode_iff]
  · have hop := op_eq_iff_of_decode h
    have heng := engine_eq_iff_of_decode h
    exact ⟨hop .embed, hop .extract, hop .capacity, heng .lsb, heng .dct, heng .dwt⟩

theorem decodeTableWord_eq_some_iff {nbits w : Nat} {i : Instr} :
    decodeTableWord nbits w = some i ↔ tableWord nbits w = encode i := by
  rw [← decode_eq_ok_iff, decodeTableWord]
  cases decode (tableWord nbits w) <;> simp

theorem decodeTableWord_eq_none_iff {nbits w : Nat} :
    decodeTableWord nbits w = none ↔ ∀ i, tableWord nbits w ≠ encode i := by
  simp only [Option.eq_none_iff_forall_ne_some, ne_eq, decodeTableWord_eq_some_iff]

/-- Settles O3: the commands' samples are their words, and the reserved ones are no command's word. -/
theorem decodesSampleWords : Obligations.DecodesSampleWords := by
  refine ⟨decode_encode .embedLsb, decode_encode .extractDct, decode_encode .capacityDwt,
    decodeTableWord_eq_some_iff.mpr rfl, decodeTableWord_eq_none_iff.mpr ?_, decodeTableWord_eq_none_iff.mpr ?_⟩ <;>
    intro i <;> cases i <;> decide

end Sys2Proof
end

section
/-! SUPPORT. The codec of 40_codec.md one byte at a time: what eight bits of a stream do to the grouping and to the loop of
`ExtractStream`, the loop in closed form, and the grouping as the inverse of writing bytes MSB first. -/

namespace Sys2Proof.Machine

open Sys2Proof

/-! The written sequence. -/

/-- Settles O46: the terminator is the last byte written, and its bits are 0. -/
theorem textBitsEndInTerminator : Obligations.TextBitsEndInTerminator := by
  refine ⟨fun payload => ⟨length_textToBits payload, ?_⟩, rfl, fun payload hlen => ?_⟩
  · rw [textToBits, List.flatMap_append, ← length_flatMap_byteBits, List.drop_left]
    rfl
  · rw [length_textToBits, hlen]

/-! Bits grouped into bytes. -/

theorem length_lt_of_no_byte {c : List Bool}
    (h : ∀ b7 b6 b5 b4 b3 b2 b1 b0 rest, c = b7 :: b6 :: b5 :: b4 :: b3 :: b2 :: b1 :: b0 :: rest → False) :
    c.length < 8 := by
  by_contra hge
  match c with
  | _ :: _ :: _ :: _ :: _ :: _ :: _ :: _ :: _ => exact h _ _ _ _ _ _ _ _ _ rfl
  | [] | [_] | [_, _] | [_, _, _] | [_, _, _, _] | [_, _, _, _, _] | [_, _, _, _, _, _] | [_, _, _, _, _, _, _] =>
    exact hge (by simp)

theorem groupBytes_of_length_lt {c : List Bool} (h : c.length < 8) : groupBytes c = [] := by
  unfold groupBytes
  split
  · simp only [List.length_cons] at h
    omega
  · rfl

theorem bitsToText_byte (b7 b6 b5 b4 b3 b2 b1 b0 : Bool) (rest : List Bool) :
    bitsToText (b7 :: b6 :: b5 :: b4 :: b3 :: b2 :: b1 :: b0 :: rest) =
      if byteOfBits [b7, b6, b5, b4, b3, b2, b1, b0] = terminator then []
      else byteOfBits [b7, b6, b5, b4, b3, b2, b1, b0] :: bitsToText rest := by
  simp only [bitsToText, groupBytes, List.takeWhile_cons, bne_iff_ne, ne_eq, ite_not]

theorem byteOfBits_byteBits : ∀ b : Byte, byteOfBits (byteBits b) = b := by decide

theorem groupBytes_byteBits_append (b : Byte) (rest : List Bool) :
    groupBytes (byteBits b ++ rest) = b :: groupBytes rest :=
  congrArg (· :: groupBytes rest) (byteOfBits_byteBits b)

/-- Grouping gives back the bytes that were written, whatever bits follow. -/
theorem groupBytes_flatMap_byteBits_append (bytes : List Byte) (rest : List Bool) :
    groupBytes (bytes.flatMap byteBits ++ rest) = bytes ++ groupBytes rest := by
  induction bytes with
  | nil => rfl
  | cons b bytes ih => rw [List.flatMap_cons, List.append_assoc, groupBytes_byteBits_append, ih, List.cons_append]

theorem groupBytes_textToBits_append (payload : List Byte) (rest : List Bool) :
    groupBytes (textToBits payload ++ rest) = payload ++ terminator :: groupBytes rest := by
  rw [textToBits, groupBytes_flatMap_byteBits_append, List.append_assoc, List.singleton_append]

/-- Nothing past a terminator is decoded. -/
theorem takeWhile_append_terminator (bytes tail : List Byte) :
    (bytes ++ terminator :: tail).takeWhile (· != terminator) = bytes.takeWhile (· != terminator) := by
  induction bytes with
  | nil => simp
  | cons b bytes ih => simp only [List.cons_append, List.takeWhile_cons, ih]

theorem bitsToText_textToBits_append (payload : List Byte) (rest : List Bool) :
    bitsToText (textToBits payload ++ rest) = payload.takeWhile (· != terminator) := by
  rw [bitsToText, groupBytes_textToBits_append, takeWhile_append_terminator]

/-! The loop of `ExtractStream`. -/

/-- Fewer than eight bits complete no byte: they are only counted. -/
theorem extractFrom_of_length_lt (c : List Bool) (acc : Byte) {n : Nat} (h : n + c.length < 8) (cnt : Nat)
    (out : List Byte) :
    extractFrom c acc n cnt out = { out := out, cnt := cnt + c.length, term := false } := by
  induction c generalizing acc n cnt with
  | nil => rfl
  | cons b c ih =>
    rw [List.length_cons] at h
    rw [extractFrom, if_neg (by omega), ih (shiftIn acc b) (by omega), List.length_cons, Nat.add_right_comm, Nat.add_assoc]

/-- Eight bits end the loop when they are the terminator, and are one byte decoded otherwise. -/
theorem extractFrom_byte (b7 b6 b5 b4 b3 b2 b1 b0 : Bool) (rest : List Bool) (cnt : Nat) (out : List Byte) :
    extractFrom (b7 :: b6 :: b5 :: b4 :: b3 :: b2 :: b1 :: b0 :: rest) 0#8 0 cnt out =
      if byteOfBits [b7, b6, b5, b4, b3, b2, b1, b0] = terminator then { out := out, cnt := cnt + 8, term := true }
      else extractFrom rest 0#8 0 (cnt + 8) (out ++ [byteOfBits [b7, b6, b5, b4, b3, b2, b1, b0]]) := rfl

/-- The loop from a byte boundary on, in closed form: the text of the stream, a terminator exactly when one of its bytes is
one, and the bits up to and with that byte counted. -/
theorem extractFrom_eq (c : List Bool) (cnt : Nat) (out : List Byte) :
    extractFrom c 0#8 0 cnt out =
      { out := out ++ bitsToText c
        cnt := cnt + if terminator ∈ groupBytes c then 8 * ((bitsToText c).length + 1) else c.length
        term := decide (terminator ∈ groupBytes c) } := by
  induction c using groupBytes.induct generalizing cnt out with
  | case1 b7 b6 b5 b4 b3 b2 b1 b0 rest ih =>
    rw [extractFrom_byte, bitsToText_byte, groupBytes, ih]
    generalize byteOfBits [b7, b6, b5, b4, b3, b2, b1, b0] = byte
    by_cases hterm : byte = terminator
    · simp [hterm]
    · simp only [if_neg hterm, List.mem_cons, Ne.symm hterm, false_or, List.append_assoc, List.singleton_append,
        List.length_cons, Extracted.mk.injEq, and_true, true_and]
      split <;> omega
  | case2 c hshort =>
    have hlen := length_lt_of_no_byte hshort
    rw [extractFrom_of_length_lt c 0#8 (by omega)]
    simp [bitsToText, groupBytes_of_length_lt hlen]

theorem extractStream_eq (c : List Bool) :
    extractStream c =
      { out := bitsToText c
        cnt := if terminator ∈ groupBytes c then 8 * ((bitsToText c).length + 1) else c.length
        term := decide (terminator ∈ groupBytes c) } := by
  rw [extractStream, extractFrom_eq, List.nil_append, Nat.zero_add]

/-- Settles O48, from the loop in closed form. -/
theorem extractAgreesWithBitsToText : Obligations.ExtractAgreesWithBitsToText := by
  intro c
  rw [extractStream_eq]
  exact ⟨rfl, fun hterm => if_pos (of_decide_eq_true hterm), fun hterm => if_neg (of_decide_eq_false hterm)⟩

/-- Settles O49: the grouping gives back the payload and its terminator, which ends the text at the payload's first zero byte
or at its end. -/
theorem codecRoundTrip : Obligations.CodecRoundTrip := by
  intro payload rest
  rw [extractStream_eq]
  refine ⟨?_, bitsToText_textToBits_append payload rest, decide_eq_true ?_⟩
  · rw [← List.append_nil (textToBits payload)]
    exact bitsToText_textToBits_append payload []
  · simp [groupBytes_textToBits_append]

end Sys2Proof.Machine
end

section
/-! SUPPORT. The numeric order of binary64 values (00_scope.md R14): the bits 62:0 of an encoding order as the magnitudes they
stand for, so the comparisons compare exact values. With it the absolute value, and the least a rounded sum can be. -/

namespace Sys2Proof.Machine

open Sys2Proof

/-! The bits of a magnitude. -/

/-- The bits 62:0 of an encoding. -/
def magnitudeBits (x : F64) : Nat := x.toNat % 2 ^ 63

theorem fRank_eq (x : F64) : fRank x = signed (fNegative x) (magnitudeBits x) := rfl

theorem fFrac_lt (x : F64) : fFrac x < 2 ^ 52 := Nat.mod_lt _ (by decide)

theorem magnitudeBits_eq_fields (x : F64) : magnitudeBits x = fExp x * 2 ^ 52 + fFrac x := by
  rw [magnitudeBits, fExp, fFrac, Nat.shiftRight_eq_div_pow]
  omega

theorem magnitudeBits_lt_of_finite {x : F64} (h : fFinite x = true) : magnitudeBits x < fInfBits := by
  have hexp : fExp x < 2048 := Nat.mod_lt _ (by decide)
  have hfrac := fFrac_lt x
  have hfin := (fFinite_iff x).1 h
  rw [magnitudeBits_eq_fields, fInfBits]
  omega

/-- The bits are the scale and the significand, added as `fRound` adds them. -/
theorem magnitudeBits_eq (x : F64) : magnitudeBits x = fScale x * 2 ^ 52 + fMant x := by
  rw [magnitudeBits_eq_fields, fScale, fMant]
  split <;> omega

/-- Above the subnormal scale the significand has its leading bit. -/
theorem le_fMant_of_fScale_ne_zero {x : F64} (h : fScale x ≠ 0) : 2 ^ 52 ≤ fMant x := by
  rw [fScale] at h
  rw [fMant, if_neg (by omega)]
  exact Nat.le_add_right _ _

/-- A value of a smaller scale has a smaller magnitude: its significand has at most 53 bits. -/
theorem fMagnitude_lt_of_fScale_lt {a b : F64} (h : fScale a < fScale b) : fMagnitude a < fMagnitude b := by
  calc fMagnitude a < 2 ^ 53 * 2 ^ fScale a := Nat.mul_lt_mul_of_pos_right (fMant_lt a) (by positivity)
    _ = 2 ^ 52 * 2 ^ (fScale a + 1) := by ring
    _ ≤ 2 ^ 52 * 2 ^ fScale b := Nat.mul_le_mul_left _ (Nat.pow_le_pow_right (by decide) h)
    _ ≤ fMagnitude b := Nat.mul_le_mul_right _ (le_fMant_of_fScale_ne_zero (by omega))

theorem fMagnitude_lt_of_magnitudeBits_lt {a b : F64} (h : magnitudeBits a < magnitudeBits b) :
    fMagnitude a < fMagnitude b := by
  rw [magnitudeBits_eq, magnitudeBits_eq] at h
  rcases Nat.lt_trichotomy (fScale a) (fScale b) with hlt | heq | hgt
  · exact fMagnitude_lt_of_fScale_lt hlt
  · rw [fMagnitude, fMagnitude, heq]
    exact Nat.mul_lt_mul_of_pos_right (by omega) (by positivity)
  · have hnormal := le_fMant_of_fScale_ne_zero (x := a) (by omega)
    have hlt := fMant_lt b
    omega

theorem fMagnitude_eq_of_magnitudeBits_eq {a b : F64} (h : magnitudeBits a = magnitudeBits b) :
    fMagnitude a = fMagnitude b := by
  obtain ⟨hexp, hfrac⟩ : fExp a = fExp b ∧ fFrac a = fFrac b := by
    rw [magnitudeBits_eq_fields, magnitudeBits_eq_fields] at h
    have hfa := fFrac_lt a
    have hfb := fFrac_lt b
    omega
  rw [fMagnitude, fMagnitude, fMant, fMant, fScale, fScale, hexp, hfrac]

theorem magnitudeBits_lt_iff (a b : F64) : magnitudeBits a < magnitudeBits b ↔ fMagnitude a < fMagnitude b := by
  refine ⟨fMagnitude_lt_of_magnitudeBits_lt, fun hlt => ?_⟩
  by_contra hge
  rcases (Nat.not_lt.1 hge).lt_or_eq with hgt | heq
  · exact absurd (fMagnitude_lt_of_magnitudeBits_lt hgt) hlt.asymm
  · exact hlt.ne' (fMagnitude_eq_of_magnitudeBits_eq heq)

theorem magnitudeBits_eq_zero_iff (x : F64) : magnitudeBits x = 0 ↔ fMagnitude x = 0 := by
  have hzero := magnitudeBits_lt_iff fZero x
  rw [show magnitudeBits fZero = 0 from rfl, show fMagnitude fZero = 0 from rfl] at hzero
  omega

/-! The comparisons. -/

/-- Positions order as exact values; no position is a NaN's. -/
theorem fRank_lt_iff (a b : F64) : fRank a < fRank b ↔ fUnits a < fUnits b := by
  have hab := magnitudeBits_lt_iff a b
  have hba := magnitudeBits_lt_iff b a
  have hza := magnitudeBits_eq_zero_iff a
  have hzb := magnitudeBits_eq_zero_iff b
  rw [fRank_eq, fRank_eq, fUnits_eq, fUnits_eq]
  cases fNegative a <;> cases fNegative b <;> simp only [signed_false, signed_true] <;> omega

theorem fRank_le_iff (a b : F64) : fRank a ≤ fRank b ↔ fUnits a ≤ fUnits b := by
  rw [← not_lt, fRank_lt_iff, not_lt]

theorem fUnits_eq_fMagnitude {x : F64} (h : 0 < fUnits x) : fUnits x = fMagnitude x := by
  rw [fUnits_eq] at h ⊢
  cases hneg : fNegative x
  case false => rfl
  case true =>
    rw [hneg, signed_true] at h
    omega

theorem fUnits_le_fMagnitude (x : F64) : fUnits x ≤ fMagnitude x := by
  rw [fUnits_eq]
  cases fNegative x <;> simp only [signed_false, signed_true] <;> omega

section
variable {a b : F64}

theorem fLt_iff (ha : fIsNaN a = false) (hb : fIsNaN b = false) : fLt a b = true ↔ fUnits a < fUnits b := by
  simp [fLt, ha, hb, fRank_lt_iff]

theorem fLe_iff (ha : fIsNaN a = false) (hb : fIsNaN b = false) : fLe a b = true ↔ fUnits a ≤ fUnits b := by
  simp [fLe, ha, hb, fRank_le_iff]

end

@[simp] theorem fUnits_fZero : fUnits fZero = 0 := rfl

@[simp] theorem fIsNaN_fZero : fIsNaN fZero = false := rfl

/-! The absolute value. -/

theorem toNat_fAbs (x : F64) : (fAbs x).toNat = x.toNat % 2 ^ 63 := by
  rw [fAbs, BitVec.toNat_and]
  exact Nat.and_two_pow_sub_one_eq_mod _ 63

theorem fNegative_fAbs (x : F64) : fNegative (fAbs x) = false := by
  rw [fNegative, BitVec.msb_eq_decide, toNat_fAbs]
  exact decide_eq_false (Nat.not_le.2 (Nat.mod_lt _ (by decide)))

theorem fExp_fAbs (x : F64) : fExp (fAbs x) = fExp x := by
  rw [fExp, fExp, toNat_fAbs, Nat.shiftRight_eq_div_pow, Nat.shiftRight_eq_div_pow]
  omega

theorem fFrac_fAbs (x : F64) : fFrac (fAbs x) = fFrac x := by
  rw [fFrac, fFrac, toNat_fAbs]
  omega

@[simp] theorem fFinite_fAbs (x : F64) : fFinite (fAbs x) = fFinite x := by
  rw [fFinite, fExp_fAbs, fFinite]

@[simp] theorem fIsNaN_fAbs (x : F64) : fIsNaN (fAbs x) = fIsNaN x := by
  rw [fIsNaN, fExp_fAbs, fFrac_fAbs, fIsNaN]

@[simp] theorem fIsNaN_fNeg (x : F64) : fIsNaN (fNeg x) = fIsNaN x := by
  rw [fIsNaN, fExp_fNeg, fFrac_fNeg, fIsNaN]

@[simp] theorem fUnits_fAbs (x : F64) : fUnits (fAbs x) = |fUnits x| := by
  rw [fUnits_eq, fUnits_eq, fNegative_fAbs, abs_signed, signed_false, fMagnitude, fMagnitude, fMant, fMant, fScale, fScale,
    fExp_fAbs, fFrac_fAbs]

/-! A rounded value is no NaN, and no smaller than a value below the exact one. -/

section
variable {x : F64} {neg : Bool} {y : Nat}

theorem Rounds.fIsNaN_eq_false {u : Nat} (h : Rounds x neg y u) : fIsNaN x = false := by
  obtain ⟨s, q, -, rfl⟩ := h
  have hlt : min (q * 2 ^ 52 + s) fInfBits < 2 ^ 63 := (Nat.min_le_right _ _).trans_lt (by decide)
  rw [fIsNaN, fExp_fPack neg hlt, fFrac_fPack neg hlt, fInfBits]
  simp only [Bool.and_eq_false_imp, beq_iff_eq, bne_eq_false_iff_eq]
  omega

/-- A rounding past the largest finite value is above every finite value. -/
theorem Rounds.fUnits_le_of_not_finite {u : Nat} (h : Rounds x false y u) (hx : fFinite x ≠ true) {b : F64}
    (hb : fFinite b = true) : fUnits b ≤ fUnits x := by
  obtain ⟨s, q, -, rfl⟩ := h
  rw [Ne, fFinite_fPack_min_iff, not_lt] at hx
  rw [Nat.min_eq_right hx]
  have hlt := (magnitudeBits_lt_iff b (fPack false fInfBits)).1 (magnitudeBits_lt_of_finite hb)
  calc fUnits b ≤ fMagnitude b := fUnits_le_fMagnitude b
    _ ≤ fMagnitude (fPack false fInfBits) := Int.ofNat_le.2 hlt.le
    _ = fUnits (fPack false fInfBits) := rfl

theorem Rounds.fUnits_le (h : Rounds x false y 1) {b : F64} (hb : fFinite b = true) (hle : fUnits b ≤ y) :
    fUnits b ≤ fUnits x := by
  by_cases hx : fFinite x = true
  · have hnear := (h.nearestEven hx (fUnits b) (representable_fUnits b)).1
    rw [signed_false, Nat.cast_one, mul_one, mul_one, abs_of_nonpos (a := fUnits b - y) (by omega)] at hnear
    have hdist := neg_abs_le (fUnits x - y)
    omega
  · exact h.fUnits_le_of_not_finite hx hb

end

/-- A value that is not negative, added to a positive one, gives no NaN and no less than the latter, at the largest finite
values too. -/
theorem fUnits_le_fAdd {a b : F64} (ha : fFinite a = true) (hb : fFinite b = true) (hza : 0 ≤ fUnits a)
    (hzb : 0 < fUnits b) : fIsNaN (fAdd a b) = false ∧ fUnits b ≤ fUnits (fAdd a b) := by
  obtain ⟨neg, y, hsum, hrounds⟩ := fAdd_rounds ha hb
  cases neg
  case false =>
    rw [signed_false] at hsum
    exact ⟨hrounds.fIsNaN_eq_false, hrounds.fUnits_le hb (by omega)⟩
  case true =>
    rw [signed_true] at hsum
    omega

end Sys2Proof.Machine
end

section
/-! SUPPORT. The datapath primitives shared by the engines (40_codec.md R148 to R153), on exact values and on pixel bytes. -/

namespace Sys2Proof.Machine

open Sys2Proof

/-! The sign of a coefficient. -/

/-- Settles O57: a sign is read by the comparison with +0.0, whose exact value is 0. -/
theorem readSignIsStrictlyPositive : Obligations.ReadSignIsStrictlyPositive := by
  refine ⟨fun c hc => ?_, by decide, by decide⟩
  rw [readSign, fLt_iff fIsNaN_fZero (fIsNaN_of_finite hc), fUnits_fZero]

theorem fIsNaN_forceSign (c k : F64) (bit : Bool) : fIsNaN (forceSign c bit k) = fIsNaN (fAdd (fAbs c) k) := by
  cases bit <;> simp [forceSign]

theorem fUnits_forceSign (c k : F64) (bit : Bool) :
    fUnits (forceSign c bit k) = if bit then fUnits (fAdd (fAbs c) k) else -fUnits (fAdd (fAbs c) k) := by
  cases bit <;> simp [forceSign]

/-- The two magnitudes of 40_codec.md R152, 20.0 and 25.0, are finite and positive. -/
theorem finite_and_pos_of_magnitude {k : F64} (h : k = 0x4034000000000000#64 ∨ k = 0x4039000000000000#64) :
    fFinite k = true ∧ 0 < fUnits k := by
  have hpos : fFinite k = true ∧ fLt fZero k = true := by
    rcases h with rfl | rfl <;> decide
  obtain ⟨hfin, hlt⟩ := hpos
  rw [fLt_iff fIsNaN_fZero (fIsNaN_of_finite hfin), fUnits_fZero] at hlt
  exact ⟨hfin, hlt⟩

/-- Settles O56: `|c| + K` is at least K after the rounding too, and the negation for a 0 bit keeps the magnitude. -/
theorem forceSignEnforcesMagnitude : Obligations.ForceSignEnforcesMagnitude := by
  intro c k bit hc hk
  obtain ⟨hfin, hpos⟩ := finite_and_pos_of_magnitude hk
  obtain ⟨hnan, hle⟩ := fUnits_le_fAdd (a := fAbs c) (by simpa using hc) hfin (by simp) hpos
  rw [← fIsNaN_forceSign c k bit] at hnan
  refine ⟨?_, ?_, ?_⟩
  · rw [fLe_iff (fIsNaN_of_finite hfin) (by simpa using hnan), fUnits_fAbs, fUnits_forceSign]
    refine hle.trans ?_
    cases bit <;> simp [le_abs_self]
  · rintro rfl
    rw [fLt_iff fIsNaN_fZero hnan, fUnits_fZero, fUnits_forceSign, if_pos rfl]
    omega
  · rintro rfl
    rw [fLt_iff hnan fIsNaN_fZero, fUnits_fZero, fUnits_forceSign, if_neg (by decide)]
    omega

/-! The quantiser. -/

theorem f255_exact : fFinite f255 = true ∧ fUnits f255 = 255 * 2 ^ 1074 := by
  have hexact := fOfNat_exact (n := 255) (by decide)
  rwa [show fOfNat 255 = f255 by decide] at hexact

/-- A magnitude of fewer than 53 bits at a scale has no larger scale, where it would have its leading bit. -/
theorem fScale_le_of_fMagnitude_lt {x : F64} {e : Nat} (h : fMagnitude x < 2 ^ 52 * 2 ^ e) : fScale x ≤ e := by
  by_contra hle
  have hgt := not_le.1 hle
  have hlarge : 2 ^ 52 * 2 ^ e ≤ fMagnitude x :=
    Nat.mul_le_mul (le_fMant_of_fScale_ne_zero (Nat.ne_zero_of_lt hgt)) (Nat.pow_le_pow_right Nat.two_pos hgt.le)
  omega

/-- Rounding half up, by the remainder and by a division. -/
theorem roundHalfUp_eq_div (m : Nat) {v : Nat} (hv : 0 < v) :
    (if v ≤ 2 * (m % v) then m / v + 1 else m / v) = (2 * m + v) / (2 * v) := by
  have hmod := Nat.mod_lt m hv
  have hsplit : 2 * m + v = 2 * (m % v) + v + 2 * v * (m / v) := by
    rw [Nat.mul_assoc]
    have hdiv := Nat.mod_add_div m v
    omega
  have hround : (2 * (m % v) + v) / (2 * v) = if v ≤ 2 * (m % v) then 1 else 0 := by
    split
    · exact Nat.div_eq_of_lt_le (by omega) (by omega)
    · exact Nat.div_eq_of_lt (by omega)
  rw [hsplit, Nat.add_mul_div_left _ _ (by omega), hround]
  split <;> omega

/-- Inside the clamp the quantiser is the floor of the exact value and a half, computed on the significand. -/
theorem quantise_inside {x : F64} (hlow : ¬ fLe x fZero = true) (hhigh : ¬ fLe f255 x = true) (hscale : fScale x ≤ 1074) :
    quantise x = (2 * fMagnitude x + 2 ^ 1074) / 2 ^ 1075 := by
  obtain ⟨d, hd⟩ := Nat.exists_eq_add_of_le' hscale
  have hone : 2 ^ 1074 = 2 ^ d * 2 ^ fScale x := by rw [hd, pow_add]
  have hnum : 2 * fMagnitude x + 2 ^ 1074 = (2 * fMant x + 2 ^ d) * 2 ^ fScale x := by
    rw [fMagnitude, hone]
    ring
  have hden : 2 ^ 1075 = 2 * 2 ^ d * 2 ^ fScale x := by
    rw [pow_succ 2 1074, hone]
    ring
  rw [hnum, hden, Nat.mul_div_mul_right _ _ (by positivity), ← roundHalfUp_eq_div _ (by positivity)]
  simp only [quantise, hlow, hhigh, Bool.false_eq_true, if_false, hd, Nat.add_sub_cancel, Nat.shiftRight_eq_div_pow]

/-- Settles O55: the two clamps compare exact values, and between them the exact value is rounded on the significand. -/
theorem quantiserRoundsHalfUp : Obligations.QuantiserRoundsHalfUp := by
  intro x hx
  have hnan := fIsNaN_of_finite hx
  obtain ⟨hfin255, hunits255⟩ := f255_exact
  have hzero : fLe x fZero = true ↔ fUnits x ≤ 0 := by rw [fLe_iff hnan fIsNaN_fZero, fUnits_fZero]
  have htop : fLe f255 x = true ↔ 255 * 2 ^ 1074 ≤ fUnits x := by
    rw [fLe_iff (fIsNaN_of_finite hfin255) hnan, hunits255]
  split
  · next hlow => rw [quantise, if_pos (hzero.2 hlow), Nat.cast_zero]
  · next hlow =>
    split
    · next hhigh => rw [quantise, if_neg (mt hzero.1 hlow), if_pos (htop.2 hhigh), Nat.cast_ofNat]
    · next hhigh =>
      have hmag := fUnits_eq_fMagnitude (not_le.1 hlow)
      have hscale : fScale x ≤ 1074 := by
        rw [hmag, not_le] at hhigh
        have hlt : fMagnitude x < 255 * 2 ^ 1074 := by exact_mod_cast hhigh
        exact fScale_le_of_fMagnitude_lt (hlt.trans_le (Nat.mul_le_mul_right _ (by decide)))
      rw [quantise_inside (mt hzero.1 hlow) (mt htop.1 hhigh) hscale, hmag]
      simp only [Int.natCast_ediv, Nat.cast_add, Nat.cast_mul, Nat.cast_pow, Nat.cast_ofNat]

/-! Pixels. -/

theorem intensity_eq_mod (p : Word) : intensity p = p.toNat % 256 := by
  rw [intensity, BitVec.extractLsb'_toNat, Nat.shiftRight_zero]

theorem toNat_gray {v : Nat} (h : v < 256) : (gray v).toNat = 0xFF000000 + v * 65536 + v * 256 + v := by
  have hbyte : (BitVec.ofNat 8 v).toNat = v := by rw [BitVec.toNat_ofNat, Nat.mod_eq_of_lt h]
  simp only [gray, toNat_append_byte, hbyte, BitVec.toNat_ofNat]
  omega

/-- Settles O58: the four bytes are digits in base 256, and the intensity is the last one. -/
theorem grayPixelLayout : Obligations.GrayPixelLayout := by
  refine fun v hv => ⟨toNat_gray hv, ?_⟩
  rw [intensity_eq_mod, toNat_gray hv]
  omega

end Sys2Proof.Machine
end

section
/-! SUPPORT. The success of a command, said once for every engine (44_validation.md R271 to R276): the operands that pass the
checks, and the state an EMBED, an EXTRACT and a CAPACITY then leave. -/

namespace Sys2Proof.Machine

open Sys2Proof

/-! The checks. -/

theorem configOK_iff (op : Op) (s : State) :
    configOK op s = true ↔ s.GeometryInRange ∧ (op = .embed → s.PayloadInRange) := by
  rw [configOK, Bool.and_eq_true, Bool.or_eq_true, decide_eq_true_iff, decide_eq_true_iff, bne_iff_ne, ← imp_iff_not_or]
  exact and_congr_left' and_assoc.symm

/-- The operands that pass every check of a legal command (44_validation.md R275). -/
theorem commandCheck_eq_none_iff (op : Op) (eng : Engine) (s : State) :
    commandCheck op eng s = none ↔
      s.GeometryInRange ∧ (op = .embed → s.PayloadInRange ∧ geometryOK eng s.width.toNat s.height.toNat = true
        ∧ 8 * (s.payloadLen.toNat + 1) ≤ cap eng s.width.toNat s.height.toNat) := by
  unfold commandCheck
  by_cases hc : configOK op s = true
  · obtain ⟨hgeometry, hpayload⟩ := (configOK_iff op s).1 hc
    rw [if_neg (by simp [hc]), and_iff_right hgeometry]
    cases op with
    | extract | capacity => exact iff_of_true rfl nofun
    | embed =>
      rw [forall_prop_of_true rfl, and_iff_right (hpayload rfl)]
      simp only [Bool.not_eq_true']
      split_ifs with hgeo hcap
      · exact iff_of_false nofun fun ⟨hok, _⟩ => Bool.false_ne_true (hgeo.symm.trans hok)
      · exact iff_of_false nofun fun ⟨_, hle⟩ => Nat.not_le.2 hcap hle
      · exact iff_of_true rfl ⟨Bool.eq_true_of_not_eq_false hgeo, Nat.not_lt.1 hcap⟩
  · rw [if_pos (by simp [hc])]
    refine iff_of_false nofun fun ⟨hgeometry, hembed⟩ => hc ?_
    exact (configOK_iff op s).2 ⟨hgeometry, fun hop => (hembed hop).1⟩

/-- A carrier of 16-bit dimensions has fewer pixels than a register can count (10_state.md R40, R41). -/
theorem carrier_lt_two_pow (s : State) : s.width.toNat * s.height.toNat < 2 ^ 32 :=
  Nat.mul_lt_mul'' (c := 2 ^ 16) (d := 2 ^ 16) s.width.isLt s.height.isLt

/-- No engine has more capacity than the carrier has pixels (R171, R199, R243). -/
theorem cap_le (eng : Engine) (w h : Nat) : cap eng w h ≤ w * h := by
  cases eng <;> simp only [cap] <;> omega

/-- A register holds a count of carrier pixels exactly. -/
theorem toNat_ofNat_of_le_carrier (s : State) {n : Nat} (h : n ≤ s.width.toNat * s.height.toNat) :
    (BitVec.ofNat 32 n).toNat = n := by
  rw [BitVec.toNat_ofNat, Nat.mod_eq_of_lt (h.trans_lt (carrier_lt_two_pow s))]

/-! CAPACITY. -/

theorem completeCapacity_of_geometry (eng : Engine) {s : State} (h : s.GeometryInRange) :
    ∃ t, completeCapacity eng s = .next t
      ∧ t = { s with capacity := t.capacity, status := succeededStatus s.status s.status.term }
      ∧ t.capacity.toNat = cap eng s.width.toNat s.height.toNat := by
  have passed : commandCheck .capacity eng s = none := (commandCheck_eq_none_iff _ _ _).2 ⟨h, nofun⟩
  unfold completeCapacity
  rw [passed]
  exact ⟨_, rfl, rfl, toNat_ofNat_of_le_carrier s (cap_le eng _ _)⟩

/-- Settles O37: the three commands are one completion over three engines. -/
theorem capacityCommandsComplete : Obligations.CapacityCommandsComplete := fun _ h =>
  ⟨completeCapacity_of_geometry .lsb h, completeCapacity_of_geometry .dct h, completeCapacity_of_geometry .dwt h⟩

/-! EMBED. -/

@[simp] theorem length_payloadBytes (s : State) : s.payloadBytes.length = s.payloadLen.toNat := by
  simp [State.payloadBytes, State.opL]

/-- Bit `k` of the sequence an EMBED hides: bit `7 - k mod 8` of payload byte `k div 8`, and 0 in the terminator. -/
theorem textToBits_payloadBytes_getElem? (s : State) {k : Nat} (hk : k < 8 * (s.payloadLen.toNat + 1)) :
    (textToBits s.payloadBytes)[k]? =
      some (decide (k / 8 < s.payloadLen.toNat) && (readByte s .payload (k / 8)).getLsbD (7 - k % 8)) := by
  have hbit := (textBitsAreMsbFirst s.payloadBytes).2 k (by rwa [length_payloadBytes])
  rw [hbit, List.getD_eq_getElem?_getD]
  by_cases hbyte : k / 8 < s.payloadLen.toNat
  · simp [List.getElem?_append_left, State.payloadBytes, State.opL, hbyte]
  · have hterm : k / 8 = s.payloadBytes.length := by rw [length_payloadBytes]; omega
    simp [hterm]

/-- What an EMBED that succeeds leaves of a state, besides the words of its image (R172, R200, R240 with R94, R272). -/
def EmbedFrame (s t : State) : Prop :=
  (∀ a, 4 * (s.width.toNat * s.height.toNat) ≤ a → readByte t .imgOut a = readByte s .imgOut a)
    ∧ SameBytes .payload s t ∧ SameBytes .imgIn s t ∧ SameBytes .result s t
    ∧ t.bitcount.toNat = 8 * (s.payloadLen.toNat + 1)
    ∧ t.status = succeededStatus s.status s.status.term
    ∧ SameControl s t ∧ t.resultLen = s.resultLen ∧ t.capacity = s.capacity

/-- An EMBED that passes its checks succeeds: the words of its image in IMG_OUT, and its frame. -/
theorem completeEmbed_of_passed {eng : Engine} {s : State} (passed : commandCheck .embed eng s = none) :
    ∃ t, completeEmbed eng (imageOf eng) s = .next t
      ∧ (∀ k, k < s.width.toNat * s.height.toNat →
        (imageOf eng s (textToBits s.payloadBytes))[k]? = some (readWord t .imgOut (4 * k)))
      ∧ EmbedFrame s t := by
  obtain ⟨-, hembed⟩ := (commandCheck_eq_none_iff _ _ _).1 passed
  obtain ⟨-, -, hcap⟩ := hembed rfl
  have hlen := length_imageOf eng s (textToBits s.payloadBytes)
  unfold completeEmbed
  rw [passed]
  refine ⟨_, rfl, fun k hk => ?_, fun a ha => readByte_storeImage_past s (hlen.symm ▸ ha), fun _ => rfl, fun _ => rfl,
    fun _ => rfl, ?_, rfl, by simp [SameControl], rfl, rfl⟩
  · have hword := readWord_storeImage s (imageOf eng s (textToBits s.payloadBytes)) k
    rw [List.getElem?_eq_getElem (hlen.symm ▸ hk)] at hword ⊢
    exact congrArg some hword.symm
  · show (BitVec.ofNat 32 (textToBits s.payloadBytes).length).toNat = _
    rw [length_textToBits, length_payloadBytes, toNat_ofNat_of_le_carrier s (hcap.trans (cap_le eng _ _))]

/-! EXTRACT. -/

/-- No more bits are counted than the stream has. -/
theorem cnt_extractFrom_le (c : List Bool) (acc : Byte) (n cnt : Nat) (out : List Byte) :
    (extractFrom c acc n cnt out).cnt ≤ cnt + c.length := by
  induction c generalizing acc n cnt out with
  | nil => exact le_rfl
  | cons b c ih =>
    rw [extractFrom, List.length_cons]
    split_ifs
    · simp only; omega
    · exact (ih _ _ _ _).trans (by omega)
    · exact (ih _ _ _ _).trans (by omega)

theorem cnt_extractStream_le (c : List Bool) : (extractStream c).cnt ≤ c.length := by
  simpa [extractStream] using cnt_extractFrom_le c 0#8 0 0 []

/-- What an EXTRACT that succeeds with the result `r` leaves of a state (44_validation.md R272, R276 with R94). -/
def ExtractFrame (s : State) (r : Extracted) (t : State) : Prop :=
  t.resultLen.toNat = r.out.length ∧ t.bitcount.toNat = r.cnt
    ∧ t.status = succeededStatus s.status r.term
    ∧ (∀ a, readByte t .result a = (r.out[a]?).getD (readByte s .result a))
    ∧ SameBytes .payload s t ∧ SameBytes .imgIn s t ∧ SameBytes .imgOut s t
    ∧ SameControl s t ∧ t.capacity = s.capacity

/-- An EXTRACT on a geometry in range succeeds with what its stream decodes to. -/
theorem completeExtract_of_geometry (eng : Engine) {s : State} (h : s.GeometryInRange) :
    ∃ t, completeExtract eng (streamOf eng) s = .next t ∧ ExtractFrame s (extractStream (streamOf eng s)) t := by
  have passed : commandCheck .extract eng s = none := (commandCheck_eq_none_iff _ _ _).2 ⟨h, nofun⟩
  have hstream : (streamOf eng s).length ≤ s.width.toNat * s.height.toNat := length_streamOf_le eng s
  have hout := (length_extractStream_le (streamOf eng s)).trans ((Nat.div_le_self _ _).trans hstream)
  have hcnt := (cnt_extractStream_le (streamOf eng s)).trans hstream
  unfold completeExtract
  rw [passed]
  exact ⟨_, rfl, toNat_ofNat_of_le_carrier s hout, toNat_ofNat_of_le_carrier s hcnt, rfl, readByte_storeResult s _,
    fun _ => rfl, fun _ => rfl, fun _ => rfl, by simp [SameControl], rfl⟩

end Sys2Proof.Machine
end

section
/-! SUPPORT. The LSB engine (41_lsb.md): the pixels EMBED.LSB writes and EXTRACT.LSB reads, bit by bit, and the round trip. -/

namespace Sys2Proof.Machine

open Sys2Proof

/-- The carrier in raster order is IMG_IN word by word (41_lsb.md R170, 20_memory.md R86). -/
theorem carrier_raster (s : State) (k : Nat) : s.carrier (k % s.opW) (k / s.opW) = readWord s .imgIn (4 * k) := by
  rw [State.carrier, pixel, Nat.div_add_mod']

theorem getLsbD_setRedLsb (p : Word) (bit : Bool) {j : Nat} (hj : j < 32) :
    (setRedLsb p bit).getLsbD j = if j = 0 then bit else p.getLsbD j := by
  rw [setRedLsb, BitVec.getLsbD_append]
  cases j with
  | zero => simp
  | succ j => simp [Nat.add_comm 1 j, Nat.lt_of_succ_lt_succ hj]

/-- Pixel `k` of the image carries bit `k` of the sequence while there is one (41_lsb.md R172). -/
theorem lsbImage_getElem? (s : State) (bits : List Bool) {k : Nat} (hk : k < s.width.toNat * s.height.toNat) :
    (lsbImage s bits)[k]? =
      some ((bits[k]?).elim (readWord s .imgIn (4 * k)) (setRedLsb (readWord s .imgIn (4 * k)))) := by
  have hrange : (List.range (s.opW * s.opH))[k]? = some k := List.getElem?_range hk
  rw [lsbImage, List.getElem?_map, hrange, Option.map_some, carrier_raster]
  cases bits[k]? <;> rfl

theorem lsbStream_eq (s : State) :
    lsbStream s =
      (List.range (s.width.toNat * s.height.toNat)).map fun k => (readWord s .imgIn (4 * k)).getLsbD 0 := by
  simp only [lsbStream, carrier_raster]
  rfl

/-- Settles O38: the image word by word, where the sequence reaches and where it has ended. -/
theorem embedLsbCompletes : Obligations.EmbedLsbCompletes := by
  intro s hgeometry hpayload hcap
  have passed : commandCheck .embed .lsb s = none :=
    (commandCheck_eq_none_iff _ _ _).2 ⟨hgeometry, fun _ => ⟨hpayload, rfl, hcap⟩⟩
  obtain ⟨t, hexec, hword, hframe⟩ := completeEmbed_of_passed passed
  refine ⟨t, hexec, fun k j hk hj => ?_, hframe⟩
  have himage := (lsbImage_getElem? s (textToBits s.payloadBytes) hk).symm.trans (hword k hk)
  rw [← Option.some.inj himage]
  by_cases hbit : k < 8 * (s.payloadLen.toNat + 1)
  · rw [textToBits_payloadBytes_getElem? s hbit]
    rw [Option.elim_some, getLsbD_setRedLsb _ _ hj]
    simp [hbit]
  · have hend : (textToBits s.payloadBytes)[k]? = none :=
      List.getElem?_eq_none (by rw [length_textToBits, length_payloadBytes]; omega)
    rw [hend, Option.elim_none, if_neg fun h => hbit h.2]

/-- Settles O39: the LSB stream is the bits 0 of IMG_IN in raster order. -/
theorem extractLsbCompletes : Obligations.ExtractLsbCompletes := by
  intro s hgeometry
  obtain ⟨t, hexec, hframe⟩ := completeExtract_of_geometry .lsb hgeometry
  exact ⟨t, _, hexec, congrArg extractStream (lsbStream_eq s), hframe⟩

/-! The round trip. -/

/-- An EMBED that ends without an error has passed its checks (60_exceptions.md R305). -/
theorem commandCheck_of_completeEmbed {eng : Engine} {image : State → List Bool → List Word} {s t : State}
    (h : completeEmbed eng image s = .next t) (herr : t.status.err = false) : commandCheck .embed eng s = none := by
  obtain ⟨e, -, rfl⟩ | ⟨passed, -⟩ := completeEmbed_cases h
  · exact absurd herr (by simp)
  · exact passed

/-- After an EMBED.LSB that succeeded the bits 0 of IMG_OUT begin with the sequence it hid. -/
theorem textToBits_prefix_of_embedLsb {s t : State} (h : exec .embedLsb s = .next t) (herr : t.status.err = false) :
    s.GeometryInRange ∧ SameControl s t ∧ textToBits s.payloadBytes <+:
      (List.range (s.width.toNat * s.height.toNat)).map fun k => (readWord t .imgOut (4 * k)).getLsbD 0 := by
  obtain ⟨hgeometry, hoperands⟩ := (commandCheck_eq_none_iff _ .lsb _).1 (commandCheck_of_completeEmbed h herr)
  obtain ⟨hpayload, -, hcap⟩ := hoperands rfl
  obtain ⟨t', hexec, hpixel, -, -, -, -, -, -, hcontrol, -⟩ := embedLsbCompletes s hgeometry hpayload hcap
  obtain rfl : t = t' := Host.Outcome.next.inj (h.symm.trans hexec)
  refine ⟨hgeometry, hcontrol, List.prefix_iff_getElem?.2 fun k hk => ?_⟩
  rw [← List.getElem?_eq_getElem hk]
  rw [length_textToBits, length_payloadBytes] at hk
  have hcarrier : k < s.width.toNat * s.height.toNat := hk.trans_le hcap
  rw [List.getElem?_map, List.getElem?_range hcarrier, Option.map_some, hpixel k 0 hcarrier (by decide),
    if_pos ⟨rfl, hk⟩, textToBits_payloadBytes_getElem? s hk]
  simp

/-- A stream that begins with the bits of a payload decodes to it up to its first zero byte (40_codec.md R145, R146). -/
theorem extractStream_of_textToBits_prefix {payload : List Byte} {c : List Bool} (h : textToBits payload <+: c) :
    (extractStream c).out = payload.takeWhile (· != 0#8) ∧ (extractStream c).term = true
      ∧ (extractStream c).cnt = 8 * ((payload.takeWhile (· != 0#8)).length + 1) := by
  obtain ⟨rest, rfl⟩ := h
  obtain ⟨-, hout, hterm⟩ := codecRoundTrip payload rest
  obtain ⟨-, hcnt, -⟩ := extractAgreesWithBitsToText (textToBits payload ++ rest)
  exact ⟨hout, hterm, hout ▸ hcnt hterm⟩

/-- Settles O50: EXTRACT.LSB reads from IMG_IN the bits EMBED.LSB left in IMG_OUT, and the codec gives the payload back. -/
theorem lsbRoundTrip : Obligations.LsbRoundTrip := by
  intro s t u _ hembed herr hparams hwidth hheight hcopy
  obtain ⟨hgeometry, ⟨hparams', -, -, hwidth', hheight', -⟩, hprefix⟩ := textToBits_prefix_of_embedLsb hembed herr
  rw [hwidth', hheight'] at hcopy
  rw [hparams'] at hparams
  rw [hwidth'] at hwidth
  rw [hheight'] at hheight
  have hgeometryU : u.GeometryInRange := by rwa [State.GeometryInRange, hparams, hwidth, hheight]
  obtain ⟨v, r, hextract, hr, hlen, hcnt, hstatus, hresult, -⟩ := extractLsbCompletes u hgeometryU
  have hstream : (List.range (s.width.toNat * s.height.toNat)).map (fun k => (readWord t .imgOut (4 * k)).getLsbD 0)
      = (List.range (u.width.toNat * u.height.toNat)).map fun k => (readWord u .imgIn (4 * k)).getLsbD 0 := by
    rw [hwidth, hheight]
    exact List.map_congr_left fun k hk => by rw [hcopy k (List.mem_range.1 hk)]
  rw [hstream] at hprefix
  obtain ⟨hout, hterm, hcount⟩ := extractStream_of_textToBits_prefix hprefix
  rw [← hr] at hout hterm hcount
  refine ⟨v, hextract, hstatus ▸ hterm, hout ▸ hlen, hcnt.trans hcount, fun k hk => ?_⟩
  rw [hresult, hout]
  exact congrArg (Option.getD · _) (List.getElem?_eq_getElem hk)

end Sys2Proof.Machine
end

section
/-! SUPPORT. The DCT engine (42_dct.md): the entries of its matrices, the blocks of the carrier, the pixels EMBED.DCT writes
block by block and the stream EXTRACT.DCT reads. -/

namespace Sys2Proof.Machine

open Sys2Proof

/-! Matrices. -/

@[simp] theorem gridAt_gridTab {rows cols r c : Nat} (hr : r < rows) (hc : c < cols) (f : Nat → Nat → F64) :
    gridAt (gridTab rows cols f) r c = f r c := by
  simp [gridAt, gridTab, List.getD_eq_getElem?_getD, List.getElem?_range hr, List.getElem?_range hc]

theorem gridTab_congr {rows cols : Nat} {f g : Nat → Nat → F64} (h : ∀ r < rows, ∀ c < cols, f r c = g r c) :
    gridTab rows cols f = gridTab rows cols g :=
  List.map_congr_left fun r hr => List.map_congr_left fun c hc => h r (List.mem_range.1 hr) c (List.mem_range.1 hc)

/-- The entry the streams read is that of the whole transform (42_dct.md R194). -/
theorem f43_eq_gridAt_fdct (f : Grid) : f43 f = gridAt (fdct f) 4 3 :=
  (gridAt_gridTab (by decide) (by decide) _).symm

/-- The forced coefficients, entry by entry from the samples (42_dct.md R203). -/
theorem forceF43_fdct (f : Grid) (bit : Bool) :
    forceF43 (fdct f) bit =
      gridTab 8 8 fun u v => if u = 4 ∧ v = 3 then forceSign (fdctAt f u v) bit kDct else fdctAt f u v :=
  gridTab_congr fun u hu v hv => by rw [fdct, gridAt_gridTab hu hv]; rfl

/-! Blocks. -/

/-- Row-major numbering: row `q` and column `r` are found again from `q·n + r`. -/
theorem div_mod_rowMajor {n r : Nat} (q : Nat) (h : r < n) : (q * n + r) / n = q ∧ (q * n + r) % n = r :=
  (Nat.div_mod_unique (Nat.zero_lt_of_lt h)).2 ⟨by rw [Nat.mul_comm, Nat.add_comm], h⟩

/-- A coordinate inside a whole block lies in the carrier (42_dct.md R196, R205). -/
theorem coordinate_lt_of_block_lt {n b i : Nat} (hb : b < n / 8) (hi : i < 8) : 8 * b + i < n := by omega

/-- A pixel of a whole block has a raster index of the carrier. -/
theorem rasterIndex_lt_of_block_lt {w h bx bY i j : Nat} (hbx : bx < w / 8) (hbY : bY < h / 8) (hi : i < 8) (hj : j < 8) :
    (8 * bY + i) * w + (8 * bx + j) < w * h :=
  calc (8 * bY + i) * w + (8 * bx + j)
    _ < (8 * bY + i) * w + w := Nat.add_lt_add_left (coordinate_lt_of_block_lt hbx hj) _
    _ = (8 * bY + i + 1) * w := (Nat.succ_mul _ _).symm
    _ ≤ h * w := Nat.mul_le_mul_right _ (coordinate_lt_of_block_lt hbY hi)
    _ = w * h := Nat.mul_comm _ _

/-- The samples of a block come from the red channel of its pixel words in IMG_IN (42_dct.md R196, R197). -/
theorem loadBlock_eq (s : State) (b : Nat) :
    loadBlock s b = gridTab 8 8 fun i j =>
      fSub (fOfNat ((readWord s .imgIn
        (4 * ((8 * (b / s.blocksX) + i) * s.opW + (8 * (b % s.blocksX) + j)))).toNat % 256)) levelShift := by
  simp only [loadBlock, intensity_eq_mod]
  rfl

/-- The samples of the block in column `bx` and row `bY` of blocks. -/
theorem loadBlock_rowMajor (s : State) {bx : Nat} (bY : Nat) (hbx : bx < s.blocksX) :
    loadBlock s (bY * s.blocksX + bx) = gridTab 8 8 fun i j =>
      fSub (fOfNat ((readWord s .imgIn (4 * ((8 * bY + i) * s.opW + (8 * bx + j)))).toNat % 256)) levelShift := by
  obtain ⟨hrow, hcol⟩ := div_mod_rowMajor bY hbx
  rw [loadBlock_eq, hrow, hcol]

/-- The image in raster order, pixel `k`: a sample of its block while there is a bit for the block, else the carrier's
pixel (42_dct.md R200, R204). -/
theorem dctImage_getElem? (s : State) (bits : List Bool) {k : Nat} (hk : k < s.opW * s.opH) :
    (dctImage s bits)[k]? =
      let x := k % s.opW
      let y := k / s.opW
      let b := y / 8 * s.blocksX + x / 8
      some ((bits[b]?).elim (s.carrier x y) fun bit => blockSample (embedBlock s b bit) (y % 8) (x % 8)) := by
  rw [dctImage, List.getElem?_map, List.getElem?_range hk, Option.map_some]
  simp only [List.getElem?_mapIdx, blockEdge]
  cases bits[k / s.opW / 8 * s.blocksX + k % s.opW / 8]? <;> rfl

/-- The image block by block: sample (`i`, `j`) of the block in column `bx` and row `bY` of blocks. -/
theorem dctImage_block_getElem? (s : State) (bits : List Bool) {bx bY i j : Nat} (hbx : bx < s.opW / 8)
    (hbY : bY < s.opH / 8) (hi : i < 8) (hj : j < 8) :
    (dctImage s bits)[(8 * bY + i) * s.opW + (8 * bx + j)]? =
      some ((bits[bY * s.blocksX + bx]?).elim (s.carrier (8 * bx + j) (8 * bY + i)) fun bit =>
        blockSample (embedBlock s (bY * s.blocksX + bx) bit) i j) := by
  have hk : (8 * bY + i) * s.opW + (8 * bx + j) < s.opW * s.opH := rasterIndex_lt_of_block_lt hbx hbY hi hj
  obtain ⟨hrow, hcol⟩ := div_mod_rowMajor (8 * bY + i) (coordinate_lt_of_block_lt hbx hj)
  obtain ⟨hblockX, hj'⟩ : (8 * bx + j) / 8 = bx ∧ (8 * bx + j) % 8 = j := by omega
  obtain ⟨hblockY, hi'⟩ : (8 * bY + i) / 8 = bY ∧ (8 * bY + i) % 8 = i := by omega
  simp only [dctImage_getElem? s bits hk, hrow, hcol, hblockX, hblockY, hi', hj']

/-- The output pixel of a processed block, from the coefficients of its samples (42_dct.md R203). -/
theorem blockSample_embedBlock (s : State) (b : Nat) (bit : Bool) {i j : Nat} (hi : i < 8) (hj : j < 8) :
    blockSample (embedBlock s b bit) i j =
      gray (quantise (fAdd (idctAt (gridTab 8 8 fun u v =>
        if u = 4 ∧ v = 3 then forceSign (fdctAt (loadBlock s b) u v) bit kDct else fdctAt (loadBlock s b) u v) i j)
          levelShift)) := by
  rw [blockSample, embedBlock, idct, gridAt_gridTab hi hj, forceF43_fdct]

/-! The capacity. -/

/-- Settles O59: both count one bit for each 64 pixels. -/
theorem transformCapacitiesAgree : Obligations.TransformCapacitiesAgree := by
  intro w h
  refine ⟨Nat.div_div_eq_div_mul _ 4 16, fun hw hh => ?_⟩
  obtain ⟨m, rfl⟩ := Nat.dvd_of_mod_eq_zero hw
  obtain ⟨n, rfl⟩ := Nat.dvd_of_mod_eq_zero hh
  have hblocks : 8 * m * (8 * n) = 64 * (m * n) := by ring
  simp [cap, hblocks]

/-! The commands. -/

/-- Settles O40: the image block by block, where the sequence reaches and where it has ended. -/
theorem embedDctCompletes : Obligations.EmbedDctCompletes := by
  intro s hgeometry hpayload hwidth hheight hcap
  have passed : commandCheck .embed .dct s = none :=
    (commandCheck_eq_none_iff _ _ _).2 ⟨hgeometry, fun _ => ⟨hpayload, decide_eq_true ⟨hwidth, hheight⟩, hcap⟩⟩
  obtain ⟨t, hexec, hword, hframe⟩ := completeEmbed_of_passed passed
  refine ⟨t, hexec, fun bx bY i j hbx hbY hi hj => ?_, hframe⟩
  intro at4 f b bit c
  have hpixel : readWord t .imgOut (at4 i j) = (textToBits s.payloadBytes)[b]?.elim (readWord s .imgIn (at4 i j))
      fun bit => blockSample (embedBlock s b bit) i j :=
    Option.some.inj ((hword _ (rasterIndex_lt_of_block_lt hbx hbY hi hj)).symm.trans
      (dctImage_block_getElem? s _ hbx hbY hi hj))
  rw [hpixel]
  by_cases hbit : b < 8 * (s.payloadLen.toNat + 1)
  · have hload : loadBlock s b = f := loadBlock_rowMajor s bY hbx
    rw [textToBits_payloadBytes_getElem? s hbit, Option.elim_some, if_pos hbit, blockSample_embedBlock s b _ hi hj, hload]
    rfl
  · have hend : (textToBits s.payloadBytes)[b]? = none :=
      List.getElem?_eq_none (by rw [length_textToBits, length_payloadBytes]; exact Nat.not_lt.1 hbit)
    rw [hend, Option.elim_none, if_neg hbit]

/-- Settles O41: the DCT stream is the sign of entry [4][3] of each block's whole transform. -/
theorem extractDctCompletes : Obligations.ExtractDctCompletes := by
  intro s hgeometry
  obtain ⟨t, hexec, hframe⟩ := completeExtract_of_geometry .dct hgeometry
  have hstream : dctStream s = (List.range s.blocks).map fun b => readSign (gridAt (fdct (loadBlock s b)) 4 3) := by
    simp only [dctStream, f43_eq_gridAt_fdct]
  simp only [loadBlock_eq] at hstream
  exact ⟨t, _, hexec, congrArg extractStream hstream, hframe⟩

end Sys2Proof.Machine
end

section
/-! SUPPORT. The DWT engine (43_dwt.md): the entries of the Haar transforms and of the forced matrix, the pixels EMBED.DWT
writes group by group and the stream EXTRACT.DWT reads. A sequence is a table over `List.range` here and a matrix a `gridTab`,
so that each transform is an equation between entries. -/

namespace Sys2Proof.Machine

open Sys2Proof

/-! The transform of a sequence. -/

/-- Entry `p` of the Haar transform of a sequence with `m` whole pairs (43_dwt.md R231). -/
def haar1DAt (m : Nat) (a : Nat → F64) (p : Nat) : F64 :=
  if p < m then haarSum (a (2 * p)) (a (2 * p + 1)) else haarDiff (a (2 * (p - m))) (a (2 * (p - m) + 1))

theorem haar1DAt_approximation {m i : Nat} (hi : i < m) (a : Nat → F64) :
    haar1DAt m a i = haarSum (a (2 * i)) (a (2 * i + 1)) := if_pos hi

theorem haar1DAt_detail (m i : Nat) (a : Nat → F64) :
    haar1DAt m a (m + i) = haarDiff (a (2 * i)) (a (2 * i + 1)) := by
  simp [haar1DAt]

/-- Entry `p` of the inverse transform of `m` approximations and `m` details (43_dwt.md R232). -/
def ihaar1DAt (m : Nat) (t : Nat → F64) (p : Nat) : F64 :=
  if p % 2 = 0 then haarSum (t (p / 2)) (t (m + p / 2)) else haarDiff (t (p / 2)) (t (m + p / 2))

theorem ihaar1DAt_even (m i : Nat) (t : Nat → F64) : ihaar1DAt m t (2 * i) = haarSum (t i) (t (m + i)) := by
  simp [ihaar1DAt]

theorem ihaar1DAt_odd (m i : Nat) (t : Nat → F64) : ihaar1DAt m t (2 * i + 1) = haarDiff (t i) (t (m + i)) := by
  simp [ihaar1DAt, Nat.mul_add_div]

/-- A table of `m + n` entries is one of the first `m` and one of the others. -/
theorem map_range_add (m n : Nat) (a : Nat → F64) :
    (List.range (m + n)).map a = (List.range m).map a ++ (List.range n).map fun i => a (m + i) := by
  rw [List.range_add, List.map_append, List.map_map]
  rfl

/-- The pairs of a table: an odd last entry takes no part (43_dwt.md R231). -/
theorem mapPairs_range (f : F64 → F64 → F64) (a : Nat → F64) (n : Nat) :
    mapPairs f ((List.range n).map a) = (List.range (n / 2)).map fun i => f (a (2 * i)) (a (2 * i + 1)) := by
  induction n using Nat.twoStepInduction generalizing a with
  | zero => rfl
  | one => rfl
  | more n ih _ =>
    have hhalf : (n + 2) / 2 = 1 + n / 2 := by omega
    rw [hhalf, Nat.add_comm n 2, map_range_add, map_range_add]
    simp only [Nat.mul_add, Nat.add_assoc]
    exact congrArg (f (a 0) (a 1) :: ·) (ih fun i => a (2 + i))

theorem haar1D_range (a : Nat → F64) (n : Nat) :
    haar1D ((List.range n).map a) = (List.range (2 * (n / 2))).map (haar1DAt (n / 2) a) := by
  rw [haar1D, mapPairs_range, mapPairs_range, Nat.two_mul, map_range_add]
  congr 1
  · exact List.map_congr_left fun i hi => (haar1DAt_approximation (List.mem_range.1 hi) a).symm
  · exact List.map_congr_left fun i _ => (haar1DAt_detail _ i a).symm

/-- Two entries from each of `m` indices are a table of `2·m` entries. -/
theorem flatMap_range_pairs (t : Nat → F64) (m : Nat) :
    ((List.range m).flatMap fun i => [t (2 * i), t (2 * i + 1)]) = (List.range (2 * m)).map t := by
  induction m with
  | zero => rfl
  | succ m ih => 
    rw [List.range_succ, List.flatMap_append, ih, Nat.mul_succ, map_range_add]
    rfl

theorem ihaar1D_range (t : Nat → F64) (m : Nat) :
    ihaar1D ((List.range (2 * m)).map t) = (List.range (2 * m)).map (ihaar1DAt m t) := by
  have hm : ((List.range (2 * m)).map t).length / 2 = m := by simp
  have hpairs : (((List.range (2 * m)).map t).take m).zip (((List.range (2 * m)).map t).drop m) =
      (List.range m).map fun i => (t i, t (m + i)) := by
    rw [Nat.two_mul, map_range_add, List.take_left' (by simp), List.drop_left' (by simp), List.zip_map']
  rw [ihaar1D, hm, hpairs, List.flatMap_map, ← flatMap_range_pairs]
  simp only [ihaar1DAt_even, ihaar1DAt_odd]

/-! The transform of a matrix. -/

theorem gridColumns_gridTab {rows cols n : Nat} (h : n ≤ cols) (f : Nat → Nat → F64) :
    gridColumns (gridTab rows cols f) n = gridTab n rows fun r c => f c r := by
  refine List.map_congr_left fun c hc => ?_
  have hcol : c < cols := (List.mem_range.1 hc).trans_le h
  simp [gridTab, List.getD_eq_getElem?_getD, List.getElem?_range hcol]

theorem map_haar1D_gridTab (rows cols : Nat) (f : Nat → Nat → F64) :
    (gridTab rows cols f).map haar1D = gridTab rows (2 * (cols / 2)) fun r => haar1DAt (cols / 2) (f r) := by
  simp only [gridTab, List.map_map, Function.comp_def, haar1D_range]

theorem map_ihaar1D_gridTab (rows m : Nat) (f : Nat → Nat → F64) :
    (gridTab rows (2 * m) f).map ihaar1D = gridTab rows (2 * m) fun r => ihaar1DAt m (f r) := by
  simp only [gridTab, List.map_map, Function.comp_def, ihaar1D_range]

/-- Entry [r][c] of the Haar transform of a matrix with `m` whole pairs of rows and `n` of columns (43_dwt.md R233). -/
def haar2DAt (m n : Nat) (f : Nat → Nat → F64) (r c : Nat) : F64 :=
  haar1DAt m (fun y => haar1DAt n (f y) c) r

theorem haar2D_gridTab (h w : Nat) (f : Nat → Nat → F64) :
    haar2D h w (gridTab h w f) = gridTab (2 * (h / 2)) (2 * (w / 2)) (haar2DAt (h / 2) (w / 2) f) := by
  rw [haar2D, map_haar1D_gridTab, gridColumns_gridTab le_rfl, map_haar1D_gridTab, gridColumns_gridTab le_rfl]
  rfl

/-- Entry [r][c] of the inverse transform of a matrix of `2·m` rows and `2·n` columns (43_dwt.md R234). -/
def ihaar2DAt (m n : Nat) (t : Nat → Nat → F64) (r c : Nat) : F64 :=
  ihaar1DAt n (fun x => ihaar1DAt m (fun y => t y x) r) c

theorem ihaar2D_gridTab (m n : Nat) (t : Nat → Nat → F64) :
    ihaar2D (2 * m) (2 * n) (gridTab (2 * m) (2 * n) t) = gridTab (2 * m) (2 * n) (ihaar2DAt m n t) := by
  rw [ihaar2D, gridColumns_gridTab le_rfl, map_ihaar1D_gridTab, gridColumns_gridTab le_rfl, map_ihaar1D_gridTab]
  rfl

/-! The subbands of a group (43_dwt.md R235): each coefficient from its own 2 by 2 group. -/

section
variable {m n i j : Nat} (f : Nat → Nat → F64)

theorem haar2DAt_ll (hi : i < m) (hj : j < n) :
    haar2DAt m n f i j =
      haarSum (haarSum (f (2 * i) (2 * j)) (f (2 * i) (2 * j + 1)))
        (haarSum (f (2 * i + 1) (2 * j)) (f (2 * i + 1) (2 * j + 1))) := by
  simp only [haar2DAt, haar1DAt_approximation hi, haar1DAt_approximation hj]

theorem haar2DAt_hl (hi : i < m) :
    haar2DAt m n f i (n + j) =
      haarSum (haarDiff (f (2 * i) (2 * j)) (f (2 * i) (2 * j + 1)))
        (haarDiff (f (2 * i + 1) (2 * j)) (f (2 * i + 1) (2 * j + 1))) := by
  simp only [haar2DAt, haar1DAt_approximation hi, haar1DAt_detail]

theorem haar2DAt_lh (hj : j < n) :
    haar2DAt m n f (m + i) j =
      haarDiff (haarSum (f (2 * i) (2 * j)) (f (2 * i) (2 * j + 1)))
        (haarSum (f (2 * i + 1) (2 * j)) (f (2 * i + 1) (2 * j + 1))) := by
  simp only [haar2DAt, haar1DAt_detail, haar1DAt_approximation hj]

theorem haar2DAt_hh :
    haar2DAt m n f (m + i) (n + j) =
      haarDiff (haarDiff (f (2 * i) (2 * j)) (f (2 * i) (2 * j + 1)))
        (haarDiff (f (2 * i + 1) (2 * j)) (f (2 * i + 1) (2 * j + 1))) := by
  simp only [haar2DAt, haar1DAt_detail]

end

/-! The carrier and its forced coefficients. -/

/-- The intensity at row `y` and column `x` of the carrier, from the red channel of its pixel word in IMG_IN. -/
def sampleAt (s : State) (y x : Nat) : F64 := fOfNat ((readWord s .imgIn (4 * (y * s.opW + x))).toNat % 256)

theorem intensities_eq (s : State) : intensities s = gridTab s.opH s.opW (sampleAt s) := by
  simp only [intensities, intensity_eq_mod]
  rfl

/-- Entry [i][x] of a matrix whose HL coefficients are forced while there is a bit for them (43_dwt.md R236, R240). -/
def forcedAt (w2 : Nat) (bits : List Bool) (t : Nat → Nat → F64) (i x : Nat) : F64 :=
  if x < w2 then t i x else (bits[i * w2 + (x - w2)]?).elim (t i x) fun bit => forceSign (t i x) bit kDwt

theorem forcedAt_left {w2 x : Nat} (hx : x < w2) (bits : List Bool) (t : Nat → Nat → F64) (i : Nat) :
    forcedAt w2 bits t i x = t i x := if_pos hx

theorem forcedAt_right (w2 : Nat) (bits : List Bool) (t : Nat → Nat → F64) (i j : Nat) :
    forcedAt w2 bits t i (w2 + j) =
      (bits[i * w2 + j]?).elim (t i (w2 + j)) fun bit => forceSign (t i (w2 + j)) bit kDwt := by
  simp [forcedAt]

/-- The rows below HL, those of HH, are past a sequence no longer than HL. -/
theorem forcedAt_below {m w2 : Nat} {bits : List Bool} (h : bits.length ≤ m * w2) (t : Nat → Nat → F64) (i x : Nat) :
    forcedAt w2 bits t (m + i) x = t (m + i) x := by
  have hend : bits[(m + i) * w2 + (x - w2)]? = none :=
    List.getElem?_eq_none (h.trans ((Nat.mul_le_mul_right _ (Nat.le_add_right _ _)).trans (Nat.le_add_right _ _)))
  rw [forcedAt, hend, Option.elim_none, ite_self]

theorem mapIdx_map_range {α β : Type} (f : Nat → α → β) (a : Nat → α) (n : Nat) :
    ((List.range n).map a).mapIdx f = (List.range n).map fun i => f i (a i) :=
  List.ext_getElem (by simp) (by simp)

theorem forceHL_gridTab (rows cols w2 : Nat) (t : Nat → Nat → F64) (bits : List Bool) :
    forceHL (gridTab rows cols t) w2 bits = gridTab rows cols (forcedAt w2 bits t) := by
  simp only [forceHL, gridTab, mapIdx_map_range]
  refine gridTab_congr fun i _ x _ => ?_
  rw [forcedAt]
  cases bits[i * w2 + (x - w2)]? <;> rfl

/-- Coefficient [r][c] that EMBED.DWT takes back to a pixel: of the carrier's transform, HL forced (43_dwt.md R240). -/
def embedCoefficient (s : State) (bits : List Bool) : Nat → Nat → F64 :=
  forcedAt (s.opW / 2) bits (haar2DAt (s.opH / 2) (s.opW / 2) (sampleAt s))

/-! The image and the stream. -/

/-- The matrix EMBED.DWT quantises, entry by entry, on even dimensions (43_dwt.md R240). -/
theorem embedWavelet_eq (s : State) (bits : List Bool) (hh : 2 * (s.opH / 2) = s.opH) (hw : 2 * (s.opW / 2) = s.opW) :
    embedWavelet s bits = gridTab s.opH s.opW (ihaar2DAt (s.opH / 2) (s.opW / 2) (embedCoefficient s bits)) := by
  have hinverse := ihaar2D_gridTab (s.opH / 2) (s.opW / 2) (embedCoefficient s bits)
  rw [hh, hw] at hinverse
  rw [embedWavelet, intensities_eq, haar2D_gridTab, forceHL_gridTab, hh, hw, ← hinverse]
  rfl

/-- A pixel of the carrier has a raster index below W·H (20_memory.md R86). -/
theorem rasterIndex_lt {w h y x : Nat} (hy : y < h) (hx : x < w) : y * w + x < w * h :=
  calc y * w + x
    _ < y * w + w := Nat.add_lt_add_left hx _
    _ = (y + 1) * w := (Nat.succ_mul _ _).symm
    _ ≤ h * w := Nat.mul_le_mul_right _ hy
    _ = w * h := Nat.mul_comm _ _

/-- A pixel of the image is the gray pixel of its entry of the inverse transform (43_dwt.md R240, R247). -/
theorem dwtImage_getElem? (s : State) (bits : List Bool) (hh : 2 * (s.opH / 2) = s.opH) (hw : 2 * (s.opW / 2) = s.opW)
    {y x : Nat} (hy : y < s.opH) (hx : x < s.opW) :
    (dwtImage s bits)[y * s.opW + x]? =
      some (gray (quantise (ihaar2DAt (s.opH / 2) (s.opW / 2) (embedCoefficient s bits) y x))) := by
  obtain ⟨hrow, hcol⟩ := div_mod_rowMajor y hx
  rw [dwtImage, List.getElem?_map, List.getElem?_range (rasterIndex_lt hy hx), Option.map_some, hrow, hcol,
    embedWavelet_eq s bits hh hw, gridAt_gridTab hy hx]

/-- The stream is the whole HL subband, which is empty when a dimension is below 2 (43_dwt.md R241, R245, R246). -/
theorem dwtStream_eq (s : State) :
    dwtStream s = (List.range (s.opH / 2 * (s.opW / 2))).map fun k =>
      readSign (haar2DAt (s.opH / 2) (s.opW / 2) (sampleAt s) (k / (s.opW / 2)) (s.opW / 2 + k % (s.opW / 2))) := by
  unfold dwtStream
  split_ifs with hsmall
  · have hempty : s.opH / 2 * (s.opW / 2) = 0 := Nat.mul_eq_zero.2 (by omega)
    rw [hempty]
    rfl
  · refine List.map_congr_left fun k hk => ?_
    have hrow : k / (s.opW / 2) < s.opH / 2 := Nat.div_lt_of_lt_mul (Nat.mul_comm _ _ ▸ List.mem_range.1 hk)
    have hcol : k % (s.opW / 2) < s.opW / 2 := Nat.mod_lt k (by omega)
    rw [hlAt, intensities_eq, haar2D_gridTab, gridAt_gridTab (by omega) (by omega)]

/-! The commands. -/

/-- A dimension that is a power of two and at least 2 passes the geometry check (43_dwt.md R239). -/
theorem powerOfTwo_two_pow {n : Nat} (h : 1 ≤ n) : powerOfTwo (2 ^ n) = true :=
  decide_eq_true ⟨Nat.le_self_pow (Nat.one_le_iff_ne_zero.1 h) 2, by rw [Nat.log2_two_pow]⟩

theorem two_mul_half_two_pow {n : Nat} (h : 1 ≤ n) : 2 * (2 ^ n / 2) = 2 ^ n :=
  Nat.mul_div_cancel' (dvd_pow_self 2 (Nat.one_le_iff_ne_zero.1 h))

/-- A choice by bit `k` of the sequence an EMBED hides: one value for each bit, another past the end. -/
theorem elim_textToBits_payloadBytes {α : Type} (s : State) (k : Nat) (past : α) (f : Bool → α) :
    ((textToBits s.payloadBytes)[k]?).elim past f =
      if k < 8 * (s.payloadLen.toNat + 1) then
        f (decide (k / 8 < s.payloadLen.toNat) && (readByte s .payload (k / 8)).getLsbD (7 - k % 8))
      else past := by
  split_ifs with hbit
  · rw [textToBits_payloadBytes_getElem? s hbit, Option.elim_some]
  · have hend : (textToBits s.payloadBytes)[k]? = none :=
      List.getElem?_eq_none (by rw [length_textToBits, length_payloadBytes]; exact Nat.not_lt.1 hbit)
    rw [hend, Option.elim_none]

/-- HL has an index for every bit the capacity allows (43_dwt.md R243). -/
theorem carrier_div_le_hl {w h : Nat} (hh : 2 * (h / 2) = h) (hw : 2 * (w / 2) = w) : w * h / 64 ≤ h / 2 * (w / 2) := by
  have hgroups : w * h = 4 * (h / 2 * (w / 2)) := by
    calc w * h
      _ = 2 * (w / 2) * (2 * (h / 2)) := by rw [hw, hh]
      _ = 4 * (h / 2 * (w / 2)) := by ring
  omega

/-- Settles O42: the image pixel by pixel, each from the four coefficients of its group, of which only HL is forced. -/
theorem embedDwtCompletes : Obligations.EmbedDwtCompletes := by
  intro s hgeometry hpayload ⟨m, hm, hwidth⟩ ⟨n, hn, hheight⟩ hcap
  have hpow : geometryOK .dwt s.width.toNat s.height.toNat = true := by
    rw [hwidth, hheight, geometryOK, powerOfTwo_two_pow hm, powerOfTwo_two_pow hn, Bool.and_self]
  have passed : commandCheck .embed .dwt s = none :=
    (commandCheck_eq_none_iff _ _ _).2
      ⟨hgeometry, fun _ => ⟨hpayload, hpow, hcap.trans_eq (Nat.div_div_eq_div_mul _ 4 16).symm⟩⟩
  obtain ⟨t, hexec, hword, hframe⟩ := completeEmbed_of_passed passed
  refine ⟨t, hexec, fun i j (hi : i < s.opH / 2) (hj : j < s.opW / 2) => ?_, hframe⟩
  intro at4 g a b c d ll lh hl hh k bit hl'
  have hheven : 2 * (s.opH / 2) = s.opH := by rw [State.opH, hheight, two_mul_half_two_pow hn]
  have hweven : 2 * (s.opW / 2) = s.opW := by rw [State.opW, hwidth, two_mul_half_two_pow hm]
  have hlen : (textToBits s.payloadBytes).length ≤ s.opH / 2 * (s.opW / 2) := by
    rw [length_textToBits, length_payloadBytes]
    exact hcap.trans (carrier_div_le_hl hheven hweven)
  have hpixel {y x : Nat} (hy : y < s.opH) (hx : x < s.opW) : readWord t .imgOut (at4 y x) =
      gray (quantise (ihaar2DAt (s.opH / 2) (s.opW / 2) (embedCoefficient s (textToBits s.payloadBytes)) y x)) :=
    Option.some.inj ((hword _ (rasterIndex_lt hy hx)).symm.trans (dwtImage_getElem? s _ hheven hweven hy hx))
  have hcoeffLL : embedCoefficient s (textToBits s.payloadBytes) i j = ll :=
    (forcedAt_left hj _ _ i).trans (haar2DAt_ll (sampleAt s) hi hj)
  have hcoeffLH : embedCoefficient s (textToBits s.payloadBytes) (s.opH / 2 + i) j = lh :=
    (forcedAt_left hj _ _ _).trans (haar2DAt_lh (sampleAt s) hj)
  have hcoeffHH : embedCoefficient s (textToBits s.payloadBytes) (s.opH / 2 + i) (s.opW / 2 + j) = hh :=
    (forcedAt_below hlen _ i _).trans (haar2DAt_hh (sampleAt s))
  have hcoeffHL : embedCoefficient s (textToBits s.payloadBytes) i (s.opW / 2 + j) = hl' := by
    rw [embedCoefficient, forcedAt_right, haar2DAt_hl (sampleAt s) hi, elim_textToBits_payloadBytes]
    rfl
  obtain ⟨hrow, hrow'⟩ : 2 * i < s.opH ∧ 2 * i + 1 < s.opH := by omega
  obtain ⟨hcol, hcol'⟩ : 2 * j < s.opW ∧ 2 * j + 1 < s.opW := by omega
  simp only [hpixel hrow hcol, hpixel hrow hcol', hpixel hrow' hcol, hpixel hrow' hcol', ihaar2DAt, ihaar1DAt_even,
    ihaar1DAt_odd, hcoeffLL, hcoeffLH, hcoeffHL, hcoeffHH, and_self]

/-- Settles O43: entry `k` of HL, of the two row details of its own group. -/
theorem extractDwtCompletes : Obligations.ExtractDwtCompletes := by
  intro s hgeometry
  obtain ⟨t, hexec, hframe⟩ := completeExtract_of_geometry .dwt hgeometry
  refine ⟨t, _, hexec, congrArg extractStream ((dwtStream_eq s).trans (List.map_congr_left fun k hk => ?_)), hframe⟩
  have hrow : k / (s.opW / 2) < s.opH / 2 := Nat.div_lt_of_lt_mul (Nat.mul_comm _ _ ▸ List.mem_range.1 hk)
  exact congrArg readSign (haar2DAt_hl (sampleAt s) hrow)

end Sys2Proof.Machine
end

section
/-! SUPPORT. The steps that begin and end a command (44_validation.md R270, R271): the CMD write that issues it and the
engine's turn that completes it. -/

namespace Sys2Proof.Machine

open Sys2Proof

/-! The issue step. -/

theorem writeRegister_cmd_of_idle {s : State} (idle : s.status.busy = false) (v : Word) :
    writeRegister s .cmd v = s.issue v :=
  if_neg (by simp [idle])

/-- Settles O10: the register at 0x08 is CMD, whose write while BUSY = 0 is the issue step. -/
theorem commandWriteIssues : Obligations.CommandWriteIssues := by
  intro s rest v idle hagenda
  have hissue : writeRegister { s with agenda := rest } .cmd v = State.issue { s with agenda := rest } v :=
    writeRegister_cmd_of_idle (s := { s with agenda := rest }) idle v
  have hstep := step_writeRegister (r := .cmd) (by decide) hagenda
  rw [hissue] at hstep
  exact ⟨_, hstep, rfl, Bool.and_false _⟩

/-! The completion step. -/

theorem engineTurn_of_decode {s : State} {i : Instr} (busy : s.status.busy = true) (h : decode s.cmdLast = .ok i) :
    engineTurn s = exec i s := by
  rw [engineTurn, if_pos busy, complete, h]

/-- With an empty agenda the engine moves (assumption log 2). -/
theorem step_of_agenda_nil {s : State} (h : s.agenda = []) : step s = engineTurn s := by
  rw [step, h]

theorem step_of_agenda_engine {s : State} {rest : List Turn} (h : s.agenda = .engine :: rest) :
    step s = engineTurn { s with agenda := rest } := by
  rw [step, h]

/-- Settles O4: both agendas give the engine its turn, in which it completes the decoded command. -/
theorem stepRunsDecodedCommand : Obligations.StepRunsDecodedCommand := by
  intro s i busy hdecode
  exact ⟨fun hagenda => (step_of_agenda_nil hagenda).trans (engineTurn_of_decode busy hdecode),
    fun _ hagenda => (step_of_agenda_engine hagenda).trans (engineTurn_of_decode busy hdecode)⟩

end Sys2Proof.Machine
end

section
/-! SUPPORT. Capacity parity (44_validation.md R274): the check of an EMBED compares with the value a CAPACITY writes. -/

namespace Sys2Proof.Machine

open Sys2Proof

/-- Past CONFIG and the geometry an EMBED checks its capacity and nothing else (44_validation.md R275). -/
theorem commandCheck_embed_of_geometryOK {eng : Engine} {s : State} (hgeometry : s.GeometryInRange)
    (hpayload : s.PayloadInRange) (hok : geometryOK eng s.opW s.opH = true) :
    commandCheck .embed eng s = if cap eng s.opW s.opH < 8 * (s.opL + 1) then some .capacity else none := by
  have hconfig : configOK .embed s = true := (configOK_iff _ _).2 ⟨hgeometry, fun _ => hpayload⟩
  simp [commandCheck, hconfig, hok]

/-- The error code a command leaves: that of the check that failed, else the one STATUS held. -/
theorem exec_errcode (i : Instr) (s : State) :
    ∃ t, exec i s = .next t
      ∧ t.status.errcode = (commandCheck i.op i.engine s).elim s.status.errcode errorCode := by
  refine ⟨_, exec_eq_body i s, ?_⟩
  cases commandCheck i.op i.engine s with
  | some e => rfl
  | none =>
    obtain ⟨term, hstatus⟩ := commandBody_status i s
    simp [hstatus, statusSucceed]

/-- Settles O36: the capacity the check of an EMBED reads is the one the CAPACITY command of its engine writes. -/
theorem capacityParity : Obligations.CapacityParity := by
  intro eng s hcode hgeometry hpayload hok
  obtain ⟨t, hembed, hfail⟩ := exec_errcode (instrOf .embed eng) s
  obtain ⟨u, hcapacity, -, hcap⟩ := completeCapacity_of_geometry eng hgeometry
  refine ⟨t, u, hembed, ?_, ?_⟩
  · rw [exec_eq, op_instrOf, engine_instrOf]
    exact hcapacity
  · rw [op_instrOf, engine_instrOf, commandCheck_embed_of_geometryOK hgeometry hpayload hok, hcode] at hfail
    rw [hfail, hcap]
    show _ ↔ cap eng s.opW s.opH < 8 * (s.opL + 1)
    split_ifs with hover
    · exact iff_of_true rfl hover
    · exact iff_of_false (by decide) hover

end Sys2Proof.Machine
end

section
/-! SUPPORT. What a command reads (44_validation.md R278, R280): two states that agree on it have the same payload, the same
carrier pixels, blocks and intensities, and so the same checks, image and stream. -/

namespace Sys2Proof.Machine

open Sys2Proof

/-- Two states agree on every input of a command (44_validation.md R280): the parameters, the operands, STATUS, the payload
below L and the carrier below W·H words. -/
structure SameReads (s u : State) : Prop where
  params : s.params = u.params
  width : s.opW = u.opW
  height : s.opH = u.opH
  payloadLen : s.opL = u.opL
  status : s.status = u.status
  payload : ∀ a, a < s.opL → readByte s .payload a = readByte u .payload a
  carrier : ∀ a, a < 4 * (s.opW * s.opH) → readByte s .imgIn a = readByte u .imgIn a

section
variable {s u : State} (h : SameReads s u)
include h

theorem SameReads.commandCheck_eq (op : Op) (eng : Engine) : commandCheck op eng s = commandCheck op eng u := by
  unfold commandCheck configOK
  rw [h.params, h.width, h.height, h.payloadLen]

theorem SameReads.payloadBytes_eq : s.payloadBytes = u.payloadBytes := by
  rw [State.payloadBytes, State.payloadBytes, ← h.payloadLen]
  exact List.map_congr_left fun a ha => h.payload a (List.mem_range.1 ha)

/-- A word of the carrier lies below byte 4·W·H of IMG_IN (20_memory.md R86). -/
theorem SameReads.readWord_eq {k : Nat} (hk : k < s.opW * s.opH) :
    readWord s .imgIn (4 * k) = readWord u .imgIn (4 * k) :=
  readWord_congr fun j hj => h.carrier _ (by omega)

theorem SameReads.carrier_eq {x y : Nat} (hx : x < s.opW) (hy : y < s.opH) : s.carrier x y = u.carrier x y := by
  rw [State.carrier, State.carrier, ← h.width]
  exact h.readWord_eq (rasterIndex_lt hy hx)

theorem SameReads.carrier_raster_eq {k : Nat} (hk : k < s.opW * s.opH) :
    s.carrier (k % s.opW) (k / s.opW) = u.carrier (k % s.opW) (k / s.opW) :=
  h.carrier_eq (Nat.mod_lt k (Nat.pos_of_mul_pos_right (Nat.zero_lt_of_lt hk))) (Nat.div_lt_of_lt_mul hk)

/-! LSB. -/

theorem SameReads.lsbImage_eq (bits : List Bool) : lsbImage s bits = lsbImage u bits := by
  rw [lsbImage, lsbImage, ← h.width, ← h.height]
  exact List.map_congr_left fun k hk => by rw [h.carrier_raster_eq (List.mem_range.1 hk)]

theorem SameReads.lsbStream_eq : lsbStream s = lsbStream u := by
  rw [lsbStream, lsbStream, ← h.width, ← h.height]
  exact List.map_congr_left fun k hk => by rw [h.carrier_raster_eq (List.mem_range.1 hk)]

/-! DCT. -/

theorem SameReads.blocksX_eq : s.blocksX = u.blocksX := by
  rw [State.blocksX, State.blocksX, h.width]

theorem SameReads.blocks_eq : s.blocks = u.blocks := by
  rw [State.blocks, State.blocks, h.blocksX_eq, h.height]

/-- The pixels of a whole block are carrier pixels (42_dct.md R196, R205). -/
theorem SameReads.loadBlock_eq {b : Nat} (hb : b < s.blocks) : loadBlock s b = loadBlock u b := by
  have hpos : 0 < s.blocksX := Nat.pos_of_mul_pos_right (Nat.zero_lt_of_lt hb)
  have hcolumn : b % s.blocksX < s.opW / 8 := Nat.mod_lt b hpos
  have hrow : b / s.blocksX < s.opH / 8 := Nat.div_lt_of_lt_mul hb
  rw [Machine.loadBlock_eq, Machine.loadBlock_eq, ← h.blocksX_eq, ← h.width]
  refine gridTab_congr fun i hi j hj => ?_
  rw [h.readWord_eq (rasterIndex_lt_of_block_lt hcolumn hrow hi hj)]

/-- On whole blocks every pixel of the image is a sample of a block of the carrier or a carrier pixel. -/
theorem SameReads.dctImage_eq (hok : geometryOK .dct s.opW s.opH = true) (bits : List Bool) :
    dctImage s bits = dctImage u bits := by
  obtain ⟨hwidth, hheight⟩ := of_decide_eq_true hok
  have hlen (t : State) : (dctImage t bits).length = t.opW * t.opH := length_imageOf .dct t bits
  refine List.ext_getElem (by rw [hlen, hlen, h.width, h.height]) fun k hk hk' => Option.some.inj ?_
  rw [← List.getElem?_eq_getElem hk, ← List.getElem?_eq_getElem hk']
  rw [hlen] at hk hk'
  have hx : k % s.opW < s.opW := Nat.mod_lt k (Nat.pos_of_mul_pos_right (Nat.zero_lt_of_lt hk))
  have hy : k / s.opW < s.opH := Nat.div_lt_of_lt_mul hk
  have hb : k / s.opW / 8 * s.blocksX + k % s.opW / 8 < s.blocks :=
    rasterIndex_lt (h := s.opH / 8) (w := s.opW / 8) (by omega) (by omega)
  simp only [dctImage_getElem? s bits hk, dctImage_getElem? u bits hk', ← h.width, ← h.blocksX_eq, embedBlock,
    h.loadBlock_eq hb, h.carrier_raster_eq hk]

theorem SameReads.dctStream_eq : dctStream s = dctStream u := by
  rw [dctStream, dctStream, ← h.blocks_eq]
  exact List.map_congr_left fun b hb => by rw [h.loadBlock_eq (List.mem_range.1 hb)]

/-! DWT. -/

theorem SameReads.intensities_eq : intensities s = intensities u := by
  rw [intensities, intensities, ← h.width, ← h.height]
  exact gridTab_congr fun y hy x hx => by rw [h.carrier_eq hx hy]

theorem SameReads.dwtImage_eq (bits : List Bool) : dwtImage s bits = dwtImage u bits := by
  simp only [dwtImage, embedWavelet, h.intensities_eq, h.width, h.height]

theorem SameReads.dwtStream_eq : dwtStream s = dwtStream u := by
  simp only [dwtStream, h.intensities_eq, h.width, h.height]

/-! Every engine. -/

theorem SameReads.imageOf_eq {eng : Engine} (hok : geometryOK eng s.opW s.opH = true) (bits : List Bool) :
    imageOf eng s bits = imageOf eng u bits := by
  cases eng with
  | lsb => exact h.lsbImage_eq bits
  | dct => exact h.dctImage_eq hok bits
  | dwt => exact h.dwtImage_eq bits

theorem SameReads.streamOf_eq (eng : Engine) : streamOf eng s = streamOf eng u := by
  cases eng with
  | lsb => exact h.lsbStream_eq
  | dct => exact h.dctStream_eq
  | dwt => exact h.dwtStream_eq

end

end Sys2Proof.Machine
end

section
/-! SUPPORT. What a command writes (44_validation.md R280): from equal inputs equal values, and only where it writes at all. -/

namespace Sys2Proof.Machine

open Sys2Proof

/-- A location of two states after a command: the same value was written to both, or both kept what they held. -/
def SameWrite {α : Type} (before before' after after' : α) : Prop :=
  after = after' ∨ (after = before ∧ after' = before')

theorem SameWrite.written {α : Type} {before before' v v' : α} (h : v = v') : SameWrite before before' v v' := .inl h

theorem SameWrite.kept {α : Type} {before before' v v' : α} (h : v = before) (h' : v' = before') :
    SameWrite before before' v v' := .inr ⟨h, h'⟩

/-- A location written with the value there is, if there is one. -/
theorem SameWrite.getD {α : Type} (o : Option α) (before before' : α) :
    SameWrite before before' (o.getD before) (o.getD before') := by
  cases o with
  | none => exact .kept rfl rfl
  | some v => exact .written rfl

/-- Two states after a command: the same STATUS, and every output register and memory byte written alike or kept. -/
structure SameEffect (s u t v : State) : Prop where
  status : t.status = v.status
  capacity : SameWrite s.capacity u.capacity t.capacity v.capacity
  bitcount : SameWrite s.bitcount u.bitcount t.bitcount v.bitcount
  resultLen : SameWrite s.resultLen u.resultLen t.resultLen v.resultLen
  bytes : ∀ sp a, SameWrite (readByte s sp a) (readByte u sp a) (readByte t sp a) (readByte v sp a)

/-- The error path writes STATUS only (60_exceptions.md R305). -/
theorem sameEffect_fail {s u : State} (h : s.status = u.status) (e : CmdError) :
    SameEffect s u (s.fail e) (u.fail e) where
  status := congrArg (statusFail e) h
  capacity := .kept rfl rfl
  bitcount := .kept rfl rfl
  resultLen := .kept rfl rfl
  bytes _ _ := .kept rfl rfl

/-- Success changes STATUS only (44_validation.md R272). -/
theorem SameEffect.succeed {s u t v : State} (h : SameEffect s u t v) : SameEffect s u t.succeed v.succeed where
  status := congrArg statusSucceed h.status
  capacity := h.capacity
  bitcount := h.bitcount
  resultLen := h.resultLen
  bytes := h.bytes

/-- The same image in IMG_OUT, byte by byte up to its end. -/
theorem sameWrite_storeImage (s u : State) (ws : List Word) (sp : Space) (a : Nat) :
    SameWrite (readByte s sp a) (readByte u sp a) (readByte (s.storeImage ws) sp a) (readByte (u.storeImage ws) sp a) := by
  cases sp with
  | payload | result | imgIn => exact .kept rfl rfl
  | imgOut =>
    have hj : a % 4 < 4 := Nat.mod_lt a (by decide)
    rw [← Nat.div_add_mod a 4, readByte_storeImage s ws _ _ hj, readByte_storeImage u ws _ _ hj]
    exact .getD _ _ _

/-- The same bytes in RESULT, up to their end. -/
theorem sameWrite_storeResult (s u : State) (out : List Byte) (sp : Space) (a : Nat) :
    SameWrite (readByte s sp a) (readByte u sp a) (readByte (s.storeResult out) sp a)
      (readByte (u.storeResult out) sp a) := by
  cases sp with
  | payload | imgIn | imgOut => exact .kept rfl rfl
  | result =>
    rw [readByte_storeResult, readByte_storeResult]
    exact .getD _ _ _

/-- The body of a command whose checks passed writes values that only its inputs decide. -/
theorem SameReads.sameEffect_commandBody {s u : State} (h : SameReads s u) {i : Instr}
    (passed : commandCheck i.op i.engine s = none) : SameEffect s u (commandBody i s) (commandBody i u) := by
  unfold commandBody
  cases hop : i.op with
  | embed =>
    rw [hop] at passed
    obtain ⟨-, hembed⟩ := (commandCheck_eq_none_iff _ _ _).1 passed
    obtain ⟨-, hok, -⟩ := hembed rfl
    simp only [← h.payloadBytes_eq, ← h.imageOf_eq hok]
    exact ⟨h.status, .kept rfl rfl, .written rfl, .kept rfl rfl, sameWrite_storeImage s u _⟩
  | extract =>
    simp only [← h.streamOf_eq, ← h.status]
    exact ⟨rfl, .kept rfl rfl, .written rfl, .written rfl, sameWrite_storeResult s u _⟩
  | capacity =>
    simp only [← h.width, ← h.height]
    exact ⟨h.status, .written rfl, .kept rfl rfl, .kept rfl rfl, fun _ _ => .kept rfl rfl⟩

theorem SameReads.sameEffect_exec {s u : State} (h : SameReads s u) (i : Instr) :
    ∃ t v, exec i s = .next t ∧ exec i u = .next v ∧ SameEffect s u t v := by
  refine ⟨_, _, exec_eq_body i s, exec_eq_body i u, ?_⟩
  rw [← h.commandCheck_eq]
  cases hcheck : commandCheck i.op i.engine s with
  | some e => exact sameEffect_fail h.status e
  | none => exact (h.sameEffect_commandBody hcheck).succeed

/-- Settles O45: the inputs decide the error, and else everything the body of the command writes. -/
theorem commandDependsOnInputsOnly : Obligations.CommandDependsOnInputsOnly := by
  intro i s u hparams hwidth hheight hlen hstatus hpayload hcarrier
  have hreads : SameReads s u :=
    ⟨hparams, congrArg BitVec.toNat hwidth, congrArg BitVec.toNat hheight, congrArg BitVec.toNat hlen, hstatus, hpayload,
      hcarrier⟩
  obtain ⟨t, v, hs, hu, ⟨hstatus', hcapacity, hbitcount, hresultLen, hbytes⟩⟩ := hreads.sameEffect_exec i
  exact ⟨t, v, hs, hu, hstatus', hcapacity, hbitcount, hresultLen, hbytes⟩

end Sys2Proof.Machine
end

section
/-! SUPPORT. The error a command reports (60_exceptions.md R300 to R307): its checks in their order, with the operands that fail
each of them, and the error path, which writes STATUS only. -/

namespace Sys2Proof.Machine

open Sys2Proof

/-! The checks in the order of R306. -/

/-- Geometry and capacity are checks of an EMBED alone. -/
theorem commandCheck_eq_ordered (op : Op) (eng : Engine) (s : State) :
    commandCheck op eng s =
      if ¬ (s.GeometryInRange ∧ (op = .embed → s.PayloadInRange)) then some .config
      else if op = .embed ∧ geometryOK eng s.width.toNat s.height.toNat = false then some .geometry
      else if op = .embed ∧ cap eng s.width.toNat s.height.toNat < 8 * (s.payloadLen.toNat + 1) then some .capacity
      else none := by
  simp only [← configOK_iff, commandCheck]
  cases hconfig : configOK op s with
  | false => rfl
  | true =>
    cases op with
    | extract | capacity => simp
    | embed =>
      simp only [true_and, Bool.not_eq_true']
      rfl

theorem commandCheck_eq_config_iff (op : Op) (eng : Engine) (s : State) :
    commandCheck op eng s = some .config ↔ ¬ (s.GeometryInRange ∧ (op = .embed → s.PayloadInRange)) := by
  rw [commandCheck_eq_ordered]
  split_ifs <;> grind

theorem commandCheck_eq_geometry_iff (op : Op) (eng : Engine) (s : State) :
    commandCheck op eng s = some .geometry ↔
      (s.GeometryInRange ∧ s.PayloadInRange)
        ∧ op = .embed ∧ geometryOK eng s.width.toNat s.height.toNat = false := by
  rw [commandCheck_eq_ordered]
  split_ifs <;> grind

theorem commandCheck_eq_capacity_iff (op : Op) (eng : Engine) (s : State) :
    commandCheck op eng s = some .capacity ↔
      (s.GeometryInRange ∧ s.PayloadInRange)
        ∧ op = .embed ∧ geometryOK eng s.width.toNat s.height.toNat = true
        ∧ cap eng s.width.toNat s.height.toNat < 8 * (s.payloadLen.toNat + 1) := by
  rw [commandCheck_eq_ordered]
  split_ifs <;> grind

/-! The error path. -/

theorem errorCode_inj {e e' : CmdError} : errorCode e = errorCode e' ↔ e = e' := by
  cases e <;> cases e' <;> decide

theorem one_le_errorCode (e : CmdError) : 1 ≤ (errorCode e).toNat := by
  cases e <;> decide

theorem fail_eq_failedStatus (s : State) (e : CmdError) :
    s.fail e = { s with status := failedStatus s.status (errorCode e) } := rfl

theorem exec_of_check_fails {i : Instr} {s : State} {e : CmdError} (h : commandCheck i.op i.engine s = some e) :
    exec i s = .next { s with status := failedStatus s.status (errorCode e) } := by
  rw [exec_eq_body, h, ← fail_eq_failedStatus]

/-- From ERRCODE = 0 a command reports an error exactly when its checks stop at it, and then takes the error path. -/
theorem exec_reports_iff {i : Instr} {s : State} {e : CmdError} {p : Prop} (hcode : s.status.errcode = 0#4)
    (hcheck : commandCheck i.op i.engine s = some e ↔ p) :
    ∃ t, exec i s = .next t ∧ (t.status.errcode = errorCode e ↔ p)
      ∧ (t.status.errcode = errorCode e → t = { s with status := failedStatus s.status (errorCode e) }) := by
  obtain ⟨t, hexec, hreport⟩ := exec_errcode i s
  have hiff : t.status.errcode = errorCode e ↔ commandCheck i.op i.engine s = some e := by
    rw [hreport, hcode]
    cases commandCheck i.op i.engine s with
    | none => simpa using (errorCode_ne_zero e).symm
    | some e' => simpa using errorCode_inj
  refine ⟨t, hexec, hiff.trans hcheck, fun h => ?_⟩
  exact Host.Outcome.next.inj (hexec.symm.trans (exec_of_check_fails (hiff.1 h)))

/-- Settles O31: CONFIG is the first check. -/
theorem configErrorExactly : Obligations.ConfigErrorExactly := by
  refine fun i s => ⟨fun hout => exec_of_check_fails ((commandCheck_eq_config_iff _ _ _).2 hout), fun hin hcode => ?_⟩
  obtain ⟨t, hexec, hiff, -⟩ := exec_reports_iff hcode (commandCheck_eq_config_iff i.op i.engine s)
  exact ⟨t, hexec, fun h => hiff.1 h hin⟩

/-! The geometry and the capacity, engine by engine. -/

theorem powerOfTwo_iff (n : Nat) : powerOfTwo n = true ↔ ∃ k, 1 ≤ k ∧ n = 2 ^ k := by
  constructor
  · intro h
    obtain ⟨hle, hpow⟩ := of_decide_eq_true h
    exact ⟨Nat.log2 n, (Nat.le_log2 (by omega)).2 hle, hpow.symm⟩
  · rintro ⟨k, hk, rfl⟩
    exact powerOfTwo_two_pow hk

/-- The exponent of a 16-bit dimension is at most 15 (43_dwt.md R239). -/
theorem powerOfTwo_half_iff (x : Half) : powerOfTwo x.toNat = true ↔ ∃ k, 1 ≤ k ∧ k ≤ 15 ∧ x.toNat = 2 ^ k := by
  rw [powerOfTwo_iff]
  refine exists_congr fun k => and_congr_right fun _ => (and_iff_right_of_imp fun hx => ?_).symm
  exact Nat.le_of_lt_succ ((Nat.pow_lt_pow_iff_right (a := 2) (by decide)).1 (hx ▸ x.isLt))

/-- The geometries an EMBED rejects (42_dct.md R198, 43_dwt.md R239). -/
theorem embed_rejects_geometry_iff (i : Instr) (w h : Half) :
    i.op = .embed ∧ geometryOK i.engine w.toNat h.toNat = false ↔
      (i = .embedDct ∧ (w.toNat % 8 ≠ 0 ∨ h.toNat % 8 ≠ 0))
        ∨ (i = .embedDwt ∧ ((¬ ∃ n, 1 ≤ n ∧ n ≤ 15 ∧ w.toNat = 2 ^ n) ∨ ¬ ∃ n, 1 ≤ n ∧ n ≤ 15 ∧ h.toNat = 2 ^ n)) := by
  rw [← powerOfTwo_half_iff, ← powerOfTwo_half_iff]
  cases i with
  | embedDct | embedDwt => simp [Instr.op, Instr.engine, geometryOK, imp_iff_not_or]
  | embedLsb => simp [Instr.engine, geometryOK]
  | extractLsb | extractDct | extractDwt | capacityLsb | capacityDct | capacityDwt => simp [Instr.op]

/-- The bit lengths an EMBED rejects past its geometry check (44_validation.md R273). -/
theorem embed_over_capacity_iff (i : Instr) (w h n : Nat) :
    i.op = .embed ∧ geometryOK i.engine w h = true ∧ cap i.engine w h < n ↔
      (i = .embedLsb ∧ w * h < n)
        ∨ (i = .embedDct ∧ w % 8 = 0 ∧ h % 8 = 0 ∧ w * h / 64 < n)
        ∨ (i = .embedDwt ∧ (∃ k, 1 ≤ k ∧ w = 2 ^ k) ∧ (∃ k, 1 ≤ k ∧ h = 2 ^ k) ∧ w * h / 4 / 16 < n) := by
  rw [← powerOfTwo_iff, ← powerOfTwo_iff]
  cases i with
  | embedLsb | embedDct | embedDwt => simp [Instr.op, Instr.engine, geometryOK, cap, and_assoc]
  | extractLsb | extractDct | extractDwt | capacityLsb | capacityDct | capacityDwt => simp [Instr.op]

/-- Settles O32: past CONFIG, the geometries an EMBED rejects. -/
theorem geometryErrorExactly : Obligations.GeometryErrorExactly := by
  intro i s hcode
  refine exec_reports_iff (e := .geometry) hcode ?_
  rw [commandCheck_eq_geometry_iff, embed_rejects_geometry_iff]

/-- Settles O33: past CONFIG and the geometry, the bit lengths an EMBED rejects. -/
theorem capacityErrorExactly : Obligations.CapacityErrorExactly := by
  intro i s hcode
  refine exec_reports_iff (e := .capacity) hcode ?_
  rw [commandCheck_eq_capacity_iff, embed_over_capacity_iff, and_assoc]

/-! The completion step. -/

theorem step_of_busy {s : State} (busy : s.status.busy = true) (hagenda : s.agenda = []) : step s = complete s := by
  rw [step_of_agenda_nil hagenda, engineTurn, if_pos busy]

theorem complete_of_decode_error {s : State} {e : Illegal} (h : decode s.cmdLast = .error e) :
    complete s = .next { s with status := failedStatus s.status 3#4 } := by
  rw [complete, h]
  rfl

theorem complete_of_decode_ok {s : State} {i : Instr} (h : decode s.cmdLast = .ok i) : complete s = exec i s := by
  rw [complete, h]

/-- Settles O34: a word that decodes reports what its checks stop at. -/
theorem firstErrorIsReported : Obligations.FirstErrorIsReported := by
  intro s busy hcode hagenda
  rw [step_of_busy busy hagenda]
  cases hdecode : decode s.cmdLast with
  | error e => exact ⟨_, complete_of_decode_error hdecode, rfl⟩
  | ok i =>
    obtain ⟨t, hexec, hreport⟩ := exec_errcode i s
    refine ⟨t, (complete_of_decode_ok hdecode).trans hexec, ?_⟩
    rw [hreport, hcode, commandCheck_eq_ordered]
    dsimp only
    split_ifs <;> rfl

/-- Settles O35: a success leaves ERR as it was, so the completion took the error path. -/
theorem failureWritesStatusOnly : Obligations.FailureWritesStatusOnly := by
  intro s t hok h herr
  obtain ⟨e, rfl⟩ | ⟨i, -, rfl⟩ := complete_cases h
  · exact ⟨errorCode e, one_le_errorCode e, errorCode_le_four e, rfl⟩
  · obtain ⟨term, hstatus⟩ := commandBody_status i s
    simp [hstatus, hok] at herr

/-! Reserved words. -/

/-- The nine words of 30_encoding.md R115. -/
def commandWords : List Word :=
  [0x01#32, 0x02#32, 0x03#32, 0x11#32, 0x12#32, 0x13#32, 0x21#32, 0x22#32, 0x23#32]

theorem mem_commandWords_iff (v : Word) : v ∈ commandWords ↔ ∃ i, decode v = .ok i := by
  simp only [decode_eq_ok_iff]
  constructor
  · intro hv
    obtain ⟨-, -, -, hwords⟩ := decodeInvertsEncode
    rw [commandWords, ← hwords, List.mem_map] at hv
    obtain ⟨i, -, rfl⟩ := hv
    exact ⟨i, rfl⟩
  · rintro ⟨i, rfl⟩
    cases i <;> decide

/-- The three kinds of reserved word (30_encoding.md R116) are the words that are no command's. -/
theorem reserved_iff_not_mem_commandWords (v : Word) :
    (v.toNat % 16 ≠ 1 ∧ v.toNat % 16 ≠ 2 ∧ v.toNat % 16 ≠ 3) ∨ v.toNat / 16 % 4 = 3 ∨ v.toNat / 64 ≠ 0 ↔
      v ∉ commandWords := by
  obtain ⟨hfields, -⟩ := legalFieldsDecode v
  rw [mem_commandWords_iff, hfields]
  omega

/-- Settles O5: a reserved word decodes to no command, so its completion is the error path with code 3. -/
theorem illegalWordCompletesWithCodeThree : Obligations.IllegalWordCompletesWithCodeThree := by
  refine fun s busy hagenda => ⟨reserved_iff_not_mem_commandWords s.cmdLast, fun hreserved => ?_⟩
  cases hdecode : decode s.cmdLast with
  | ok i => exact absurd ((mem_commandWords_iff s.cmdLast).2 ⟨i, hdecode⟩) hreserved
  | error e => exact ⟨_, (step_of_busy busy hagenda).trans (complete_of_decode_error hdecode), rfl, rfl⟩

end Sys2Proof.Machine
end

section
/-! SUPPORT. The interrupt (60_exceptions.md R310, R312): what sets DONE, and the write that sets IE. -/

namespace Sys2Proof.Machine

open Sys2Proof

theorem complete_busy {s t : State} (h : complete s = .next t) : t.status.busy = false := by
  obtain ⟨e, rfl⟩ | ⟨i, -, rfl⟩ := complete_cases h <;> rfl

/-- The host can clear DONE but not set it. -/
theorem HostEffect.done {s u : State} (h : HostEffect s u) (hu : u.status.done = true) : s.status.done = true := by
  cases h with
  | unchanged | draw | interruptEnable | drop | width | height | payloadLen => exact hu
  | reset => simp [softReset_status, Status.reset] at hu
  | acknowledge v => exact (Bool.and_eq_true_iff.mp hu).1
  | issue => exact absurd hu Bool.false_ne_true
  | memory => rwa [State.setMem_status] at hu

/-- Settles O29: of the turns a step can take, only the completion of a command in flight sets DONE. -/
theorem onlyCompletionSetsDone : Obligations.OnlyCompletionSetsDone := by
  intro s t hs hstep ht
  obtain ⟨-, -, rfl⟩ | ⟨hagenda, busy, hc⟩ | ⟨rest, -, -, rfl⟩ | ⟨rest, hagenda, busy, hc⟩ | ⟨a, rest, -, rfl⟩
    | ⟨rest, -, rfl⟩ := step_cases hstep
  · exact absurd (hs.symm.trans ht) Bool.false_ne_true
  · exact ⟨busy, complete_busy hc, .inl hagenda⟩
  · exact absurd (hs.symm.trans ht) Bool.false_ne_true
  · exact ⟨busy, complete_busy hc, .inr ⟨rest, hagenda⟩⟩
  · obtain ⟨u, r, effect, hu⟩ := hostAccess_effect { s with agenda := rest } a
    rw [hu] at ht
    exact absurd (hs.symm.trans (effect.done ht)) Bool.false_ne_true
  · exact absurd ht Bool.false_ne_true

theorem writeRegister_ctrl_of_not_srst (s : State) {v : Word} (h : v.toNat / 2 % 2 = 0) :
    writeRegister s .ctrl v = { s with ie := decide (v.toNat % 2 = 1) } := by
  have hsrst : v.getLsbD 1 = false := by
    rw [getLsbD_eq_decide_div, pow_one, h]
    rfl
  have hie : v.getLsbD 0 = decide (v.toNat % 2 = 1) := by
    rw [getLsbD_eq_decide_div, pow_zero, Nat.div_one]
  rw [writeRegister, writeCtrl, hsrst, hie, if_neg Bool.false_ne_true]

/-- Settles O14: without SRST a CTRL write reaches IE alone. -/
theorem interruptEnableDrivesLevel : Obligations.InterruptEnableDrivesLevel := by
  intro s rest v hsrst hagenda
  have hstep := step_writeRegister (r := .ctrl) (by decide) hagenda
  rw [writeRegister_ctrl_of_not_srst _ hsrst] at hstep
  exact ⟨_, hstep, rfl, rfl⟩

end Sys2Proof.Machine
end

section
/-! SUPPORT. Progress (70_reset_and_hazards.md R360, R361): every step answers, and a command in flight completes at the engine's
next turn, which host reads put off but do not prevent. -/

namespace Sys2Proof.Machine

open Sys2Proof

/-! Every step answers. -/

theorem exists_complete (s : State) : ∃ t, complete s = .next t := by
  cases hdecode : decode s.cmdLast with
  | error e => exact ⟨_, complete_of_decode_error hdecode⟩
  | ok i => exact ⟨_, (complete_of_decode_ok hdecode).trans (exec_eq_body i s)⟩

theorem exists_engineTurn (s : State) : ∃ t, engineTurn s = .next t := by
  unfold engineTurn
  split
  · exact exists_complete s
  · exact ⟨s, rfl⟩

/-- Settles O6, by the turn the step takes. -/
theorem everyStepAnswersNext : Obligations.EveryStepAnswersNext := by
  intro s
  unfold step
  split
  next => exact exists_engineTurn s
  next => exact ⟨_, rfl⟩
  next => exact exists_engineTurn _
  next => exact ⟨_, rfl⟩

/-! A host that only reads. -/

theorem complete_done {s t : State} (h : complete s = .next t) : t.status.done = true := by
  obtain ⟨e, rfl⟩ | ⟨i, -, rfl⟩ := complete_cases h <;> rfl

/-- A host read takes its turn off the agenda and leaves STATUS alone (20_memory.md R93). -/
theorem exists_step_hostRead {s : State} {rest : List Turn} {addr : Word} {size : AccessSize}
    (h : s.agenda = .host (.read addr size) :: rest) :
    ∃ u, step s = .next u ∧ u.agenda = rest ∧ u.status = s.status := by
  obtain ⟨r, n, hread⟩ := hostRead_frame { s with agenda := rest } addr size
  exact ⟨_, (step_hostAccess h).trans (congrArg _ hread), rfl, rfl⟩

/-- Settles O30, by induction on the reads still pending. -/
theorem pollingHostSeesCompletion : Obligations.PollingHostSeesCompletion := by
  intro s busy hreads
  induction hagenda : s.agenda generalizing s with
  | nil =>
    obtain ⟨t, hcomplete⟩ := exists_complete s
    have hrun := (run_one (M := core) s).trans ((step_of_busy busy hagenda).trans hcomplete)
    exact ⟨t, hrun, complete_busy hcomplete, complete_done hcomplete⟩
  | cons x rest ih =>
    rw [hagenda, List.forall_mem_cons] at hreads
    obtain ⟨⟨addr, size, rfl⟩, hrest⟩ := hreads
    obtain ⟨u, hstep, hu, hstatus⟩ := exists_step_hostRead hagenda
    obtain ⟨t, hrun, hdone⟩ := ih u (hstatus ▸ busy) (hu ▸ hrest) hu
    exact ⟨t, (run_succ_of_step (M := core) hstep _).trans hrun, hdone⟩

end Sys2Proof.Machine
end

section
/-! SUPPORT. Reset (70_reset_and_hazards.md R340 to R345): the registers take their reset values, and of the memories a soft
reset changes only what the command it aborts could have written. -/

namespace Sys2Proof.Machine

open Sys2Proof

/-! Power-on. -/

/-- Settles O20: the registers of the reset state, one by one. -/
theorem firstReadsAfterReset : Obligations.FirstReadsAfterReset :=
  ⟨rfl, by decide, rfl, rfl⟩

theorem step_of_agenda_powerOn {s : State} {rest : List Turn} (h : s.agenda = .powerOn :: rest) :
    step s = .next (powerOnReset { s with agenda := rest }) := by
  rw [step, h]

/-- Settles O23: the power-on event sets every field it does not keep. -/
theorem powerOnResetsEverything : Obligations.PowerOnResetsEverything :=
  fun _ _ hagenda => step_of_agenda_powerOn hagenda

/-! What an abort leaves. -/

/-- A command in flight that its checks let pass: one whose abort can leave draws (R343; assumption log 11). -/
abbrev State.Passes (s : State) (op : Op) : Prop :=
  ∃ i, decode s.cmdLast = .ok i ∧ i.op = op ∧ commandCheck i.op i.engine s = none

/-- An abort can touch the image of an EMBED or the bytes of an EXTRACT, when the checks let the command pass. -/
theorem abortRange_cases {s : State} {sp : Space} {n : Nat} (h : abortRange s = some (sp, n)) :
    (s.Passes .embed ∧ sp = .imgOut ∧ n = 4 * (s.opW * s.opH)) ∨
    (s.Passes .extract ∧ sp = .result ∧ n = s.opW * s.opH / 8) := by
  unfold abortRange at h
  split at h
  next => exact absurd h nofun
  next i hdecode =>
    split at h
    next => exact absurd h nofun
    next hpassed =>
      cases hop : i.op with
      | embed =>
        simp only [hop, Option.some.injEq, Prod.mk.injEq] at h
        obtain ⟨rfl, rfl⟩ := h
        exact .inl ⟨⟨i, hdecode, hop, hpassed⟩, rfl, rfl⟩
      | extract =>
        simp only [hop, Option.some.injEq, Prod.mk.injEq] at h
        obtain ⟨rfl, rfl⟩ := h
        exact .inr ⟨⟨i, hdecode, hop, hpassed⟩, rfl, rfl⟩
      | capacity => simp [hop] at h

theorem abortRange_isOutput {s : State} {sp : Space} {n : Nat} (h : abortRange s = some (sp, n)) :
    isOutput sp = true := by
  obtain ⟨-, rfl, -⟩ | ⟨-, rfl, -⟩ := abortRange_cases h <;> rfl

theorem abortRange_imgOut {s : State} {n : Nat} (h : abortRange s = some (.imgOut, n)) :
    s.Passes .embed ∧ n = 4 * (s.opW * s.opH) := by
  obtain ⟨hpasses, -, hn⟩ | ⟨-, hsp, -⟩ := abortRange_cases h
  · exact ⟨hpasses, hn⟩
  · exact absurd hsp nofun

theorem abortRange_result {s : State} {n : Nat} (h : abortRange s = some (.result, n)) :
    s.Passes .extract ∧ n = s.opW * s.opH / 8 := by
  obtain ⟨-, hsp, -⟩ | ⟨hpasses, -, hn⟩ := abortRange_cases h
  · exact absurd hsp nofun
  · exact ⟨hpasses, hn⟩

/-- A byte past the bytes written reads as before. -/
theorem readByte_storeBytes_past (s : State) (sp sp' : Space) {vs : List Byte} {a : Nat}
    (h : sp' = sp → vs.length ≤ a) :
    readByte (s.setMem sp (storeBytes (s.memOf sp) 0 vs)) sp' a = readByte s sp' a := by
  rw [readByte_setMem]
  split
  next e =>
    have hpast := h e
    rw [cellAt_storeBytes, dif_neg (by omega), e]
    rfl
  next => rfl

/-- A byte past the range of the abort reads as before. -/
theorem readByte_abortCommand {s : State} {sp : Space} {a : Nat} (h : ∀ n, abortRange s = some (sp, n) → n ≤ a) :
    readByte (abortCommand s) sp a = readByte s sp a := by
  obtain ⟨-, heq⟩ | ⟨sp', n, hrange, heq⟩ := abortCommand_cases s
  · rw [heq]
  · rw [heq]
    refine (readByte_congr rfl rfl a).trans (readByte_storeBytes_past s sp' sp ?_)
    rintro rfl
    simpa using h n hrange

/-! What a soft reset leaves. -/

theorem softReset_of_idle {s : State} (idle : s.status.busy = false) : softReset s = s.resetRegisters :=
  if_neg (by simp [idle])

theorem softReset_of_busy {s : State} (busy : s.status.busy = true) :
    softReset s = (abortCommand s).resetRegisters :=
  if_pos busy

@[simp] theorem readByte_resetRegisters (s : State) (sp : Space) (a : Nat) :
    readByte s.resetRegisters sp a = readByte s sp a := by
  cases sp <;> rfl

theorem readByte_softReset {s : State} {sp : Space} {a : Nat}
    (h : s.status.busy = true → ∀ n, abortRange s = some (sp, n) → n ≤ a) :
    readByte (softReset s) sp a = readByte s sp a := by
  cases hbusy : s.status.busy with
  | false => rw [softReset_of_idle hbusy, readByte_resetRegisters]
  | true => rw [softReset_of_busy hbusy, readByte_resetRegisters, readByte_abortCommand (h hbusy)]

/-- An abort writes no field but one memory and the counter of draws. -/
theorem abortCommand_frame (s : State) :
    { abortCommand s with payload := [], result := [], imgIn := [], imgOut := [], draws := s.draws }
      = { s with payload := [], result := [], imgIn := [], imgOut := [] } := by
  obtain ⟨-, heq⟩ | ⟨sp, n, -, heq⟩ := abortCommand_cases s
  · rw [heq]
  · rw [heq]
    cases sp <;> rfl

/-- Past the memories a soft reset leaves the reset state, but for what is not the block's (assumption log 15). -/
theorem softReset_frame (s : State) :
    { softReset s with payload := [], result := [], imgIn := [], imgOut := [], draws := s.draws }
      = { State.reset with
          params := s.params, epoch := s.epoch, draws := s.draws, agenda := s.agenda, response := s.response } := by
  cases hbusy : s.status.busy with
  | false => rw [softReset_of_idle hbusy]; rfl
  | true =>
    rw [softReset_of_busy hbusy]
    exact congrArg State.resetRegisters (abortCommand_frame s)

/-- A CTRL write with SRST is the soft reset, whatever IE is written (70_reset_and_hazards.md R342). -/
theorem writeRegister_ctrl_of_srst (s : State) {v : Word} (h : v.toNat / 2 % 2 = 1) :
    writeRegister s .ctrl v = softReset s := by
  rw [writeRegister, writeCtrl, getLsbD_eq_decide_div, pow_one, if_pos (decide_eq_true h)]

theorem step_softReset {s : State} {rest : List Turn} {v : Word} (hsrst : v.toNat / 2 % 2 = 1)
    (hagenda : s.agenda = .host (.write 0x04#32 .word v) :: rest) :
    step s = .next ((softReset { s with agenda := rest }).respond .writeDone) := by
  rw [step_writeRegister (r := .ctrl) (by decide) hagenda, writeRegister_ctrl_of_srst _ hsrst]

/-- What a host reads after the step: the response and the agenda are no part of a memory. -/
theorem readByte_step_softReset {s : State} {sp : Space} {a : Nat} (h : ∀ n, abortRange s = some (sp, n) → n ≤ a)
    (rest : List Turn) (r : BusResponse) :
    readByte ((softReset { s with agenda := rest }).respond r) sp a = readByte s sp a := by
  rw [readByte_respond]
  exact (readByte_softReset (s := { s with agenda := rest }) fun _ => h).trans (readByte_congr rfl rfl a)

theorem sameBytes_step_softReset {sp : Space} (h : isOutput sp = false) (s : State) (rest : List Turn)
    (r : BusResponse) : SameBytes sp s ((softReset { s with agenda := rest }).respond r) :=
  fun _ => readByte_step_softReset (fun _ hn => absurd (abortRange_isOutput hn) (by simp [h])) rest r

/-- Settles O21: with no command in flight nothing is aborted, and the registers alone are written. -/
theorem softResetWhenIdle : Obligations.SoftResetWhenIdle := by
  intro s rest v hsrst idle hagenda
  have hstep := step_softReset hsrst hagenda
  rw [softReset_of_idle (s := { s with agenda := rest }) idle] at hstep
  exact ⟨_, hstep, rfl, fun sp a => by cases sp <;> rfl⟩

/-- Settles O22: the abort reaches no byte outside its range, which is that of the command in flight. -/
theorem softResetAbortsCommand : Obligations.SoftResetAbortsCommand := by
  intro s rest v hsrst busy hagenda
  refine ⟨_, step_softReset hsrst hagenda,
    congrArg (State.respond · .writeDone) (softReset_frame { s with agenda := rest }),
    sameBytes_step_softReset rfl s rest _, sameBytes_step_softReset rfl s rest _,
    fun a ha => readByte_step_softReset (fun n hn => ?_) rest _,
    fun a ha => readByte_step_softReset (fun n hn => ?_) rest _,
    fun hnot a => readByte_step_softReset (fun n hn => ?_) rest _,
    fun hnot a => readByte_step_softReset (fun n hn => ?_) rest _⟩
  · obtain ⟨-, rfl⟩ := abortRange_imgOut hn
    exact ha
  · obtain ⟨-, rfl⟩ := abortRange_result hn
    exact ha
  · obtain ⟨hpasses, -⟩ := abortRange_imgOut hn
    exact absurd hpasses hnot
  · obtain ⟨hpasses, -⟩ := abortRange_result hn
    exact absurd hpasses hnot

end Sys2Proof.Machine
end

section
/-! SUPPORT. The busy hazard (70_reset_and_hazards.md R350 to R352): which host writes are dropped while BUSY = 1, and the sticky
HAZ, which a dropped write alone sets and which a STATUS write or a reset alone clears. -/

namespace Sys2Proof.Machine

open Sys2Proof

/-! Dropped writes. -/

/-- The registers whose writes BUSY guards (R350). -/
theorem writeRegister_of_busy {s : State} {r : Register} (busy : s.status.busy = true)
    (hr : r ∈ [Register.cmd, .width, .height, .payloadLen]) (v : Word) : writeRegister s r v = s.dropWrite := by
  simp only [List.mem_cons, List.not_mem_nil, or_false] at hr
  rcases hr with rfl | rfl | rfl | rfl <;> exact if_pos busy

theorem writeMemory_of_busy {s : State} (busy : s.status.busy = true) (sp : Space) (off : Nat) (v : Word) :
    writeMemory s sp off v = s.dropWrite :=
  if_pos busy

/-- An aligned address inside a region reaches a memory, whatever the sizes of the regions (20_memory.md R81). -/
theorem exists_accessTarget_memory {p : Params} {addr : Word} {sp : Space} (haligned : addr.toNat % 4 = 0)
    (hregion : inRegion p sp addr.toNat) : ∃ sp' off, accessTarget p addr .word = some (.memory sp' off) := by
  cases htarget : accessTarget p addr .word with
  | none =>
    obtain hsize | hmisaligned | ⟨-, hunmapped⟩ := (accessTarget_eq_none_iff _ _ _).1 htarget
    · exact absurd rfl hsize
    · exact absurd haligned hmisaligned
    · exact absurd hregion (hunmapped sp)
  | some target =>
    cases target with
    | register r =>
      obtain ⟨-, -, hwindow, -⟩ := accessTarget_register htarget
      obtain ⟨hbegin, -⟩ := hregion
      exact absurd ((registerWindow_le_base sp).trans hbegin) (Nat.not_le.2 hwindow)
    | memory sp' off => exact ⟨sp', off, rfl⟩

/-- The state after a dropped write was served (R350). -/
abbrev State.dropped (s : State) (rest : List Turn) : State :=
  { s with agenda := rest, response := some .writeDone, status := { s.status with haz := true } }

section
variable {s : State} {rest : List Turn} {addr v : Word} (busy : s.status.busy = true)
  (hagenda : s.agenda = .host (.write addr .word v) :: rest)
include busy hagenda

theorem step_writeRegister_of_busy {r : Register} (haddr : RegisterAddress addr r)
    (hr : r ∈ [Register.cmd, .width, .height, .payloadLen]) : step s = .next (s.dropped rest) := by
  rw [step_writeRegister haddr hagenda, writeRegister_of_busy (s := { s with agenda := rest }) busy hr]
  rfl

theorem step_writeMemory_of_busy {sp : Space} (haligned : addr.toNat % 4 = 0)
    (hregion : inRegion s.params sp addr.toNat) : step s = .next (s.dropped rest) := by
  obtain ⟨sp', off, htarget⟩ := exists_accessTarget_memory haligned hregion
  rw [step_hostAccess hagenda, hostAccess, hostWrite, htarget]
  dsimp only
  rw [writeMemory_of_busy (s := { s with agenda := rest }) busy]
  rfl

end

/-- Settles O11, by the target of the write: a guarded register or a memory, a register that ignores writes, STATUS, or CTRL
without and with SRST. -/
theorem busyHazardDropsWrites : Obligations.BusyHazardDropsWrites := by
  intro s rest addr v busy hagenda
  refine ⟨?_, fun hmem => readOnlyRegistersIgnoreWrites s rest addr v hmem hagenda, ?_, ?_, ?_⟩
  · rintro (hregister | ⟨haligned, hregion⟩)
    · simp only [List.mem_cons, List.not_mem_nil, or_false] at hregister
      rcases hregister with rfl | rfl | rfl | rfl
      · exact step_writeRegister_of_busy busy hagenda (r := .cmd) (by decide) (by decide)
      · exact step_writeRegister_of_busy busy hagenda (r := .width) (by decide) (by decide)
      · exact step_writeRegister_of_busy busy hagenda (r := .height) (by decide) (by decide)
      · exact step_writeRegister_of_busy busy hagenda (r := .payloadLen) (by decide) (by decide)
    · obtain hpayload | hresult | himgIn | himgOut := hregion
      · exact step_writeMemory_of_busy busy hagenda (sp := .payload) haligned hpayload
      · exact step_writeMemory_of_busy busy hagenda (sp := .result) haligned hresult
      · exact step_writeMemory_of_busy busy hagenda (sp := .imgIn) haligned himgIn
      · exact step_writeMemory_of_busy busy hagenda (sp := .imgOut) haligned himgOut
  · rintro rfl
    exact step_writeRegister (r := .status) (by decide) hagenda
  · rintro rfl hsrst
    obtain ⟨_, hstep, rfl, -⟩ := interruptEnableDrivesLevel s rest v hsrst hagenda
    exact hstep
  · rintro rfl hsrst
    exact ⟨_, step_softReset hsrst hagenda, softReset_status _,
      congrArg State.ie (softReset_frame { s with agenda := rest })⟩

/-! The sticky HAZ. -/

theorem complete_haz {s t : State} (h : complete s = .next t) : t.status.haz = s.status.haz := by
  obtain ⟨e, rfl⟩ | ⟨i, -, rfl⟩ := complete_cases h
  · rfl
  · obtain ⟨term, hstatus⟩ := commandBody_status i s
    rw [State.succeed_status, statusSucceed_haz, hstatus]

theorem hostRead_haz (s : State) (addr : Word) (size : AccessSize) :
    (hostRead s addr size).status.haz = s.status.haz := by
  obtain ⟨r, n, h⟩ := hostRead_frame s addr size
  rw [h]

/-- A step that changes HAZ serves a host write or is a power-on. -/
theorem step_changes_haz {s t : State} (h : step s = .next t) (hne : t.status.haz ≠ s.status.haz) :
    (∃ addr size v rest, s.agenda = .host (.write addr size v) :: rest
        ∧ t = hostWrite { s with agenda := rest } addr size v) ∨
    (∃ rest, s.agenda = .powerOn :: rest ∧ t.status.haz = false) := by
  obtain ⟨-, -, rfl⟩ | ⟨-, -, hc⟩ | ⟨rest, -, -, rfl⟩ | ⟨rest, -, -, hc⟩ | ⟨a, rest, hagenda, rfl⟩
    | ⟨rest, hagenda, rfl⟩ := step_cases h
  · exact absurd rfl hne
  · exact absurd (complete_haz hc) hne
  · exact absurd rfl hne
  · exact absurd (complete_haz hc) hne
  · cases a with
    | read addr size => exact absurd (hostRead_haz _ _ _) hne
    | write addr size v => exact .inl ⟨addr, size, v, rest, hagenda, rfl⟩
  · exact .inr ⟨rest, hagenda, rfl⟩

/-- Of the effects of a host access only a drop sets HAZ (R352). -/
theorem HostEffect.eq_dropWrite_of_sets_haz {s u : State} (h : HostEffect s u) (hs : s.status.haz = false)
    (hu : u.status.haz = true) : s.status.busy = true ∧ u = s.dropWrite := by
  cases h with
  | drop busy => exact ⟨busy, rfl⟩
  | unchanged | draw | interruptEnable | issue | width | height | payloadLen =>
    exact absurd (hs.symm.trans hu) Bool.false_ne_true
  | reset => simp [softReset_status, Status.reset] at hu
  | acknowledge v => simp [hs] at hu
  | memory => simp [hs] at hu

/-- A write that is served, or gets a bus error and has no effect (20_memory.md R91). -/
theorem hostWrite_cases (s : State) (addr : Word) (size : AccessSize) (v : Word) :
    hostWrite s addr size v = s.respond .writeBusError ∨
    (size = .word ∧ ∃ u, HostEffect s u ∧ hostWrite s addr size v = u.respond .writeDone) := by
  unfold hostWrite
  split
  next => exact .inl rfl
  next r htarget =>
    obtain ⟨hsize, -⟩ := accessTarget_register htarget
    exact .inr ⟨hsize, _, writeRegister_effect s r v, rfl⟩
  next sp off htarget =>
    obtain ⟨hsize, -, aligned, inside⟩ := accessTarget_memory_inside htarget
    exact .inr ⟨hsize, _, .guarded fun idle => .memory idle sp off v aligned inside, rfl⟩

/-- A write that BUSY guards keeps a HAZ that its effect keeps. -/
theorem guarded_haz {s u : State} (hs : s.status.haz = true) (hu : u.status.haz = s.status.haz) :
    (if s.status.busy then s.dropWrite else u).status.haz = true := by
  split
  · rfl
  · exact hu.trans hs

theorem writeMemory_haz {s : State} (hs : s.status.haz = true) (sp : Space) (off : Nat) (v : Word) :
    (writeMemory s sp off v).status.haz = true :=
  guarded_haz hs (by rw [State.setMem_status])

/-- Of the register writes only those to STATUS bit 3 and to CTRL bit 1 clear HAZ (10_state.md R34, R38). -/
theorem writeRegister_clears_haz {s : State} {r : Register} {v : Word} (hs : s.status.haz = true)
    (h : (writeRegister s r v).status.haz = false) :
    (r = .status ∧ v.getLsbD 3 = true) ∨ (r = .ctrl ∧ v.getLsbD 1 = true) := by
  cases r with
  | status =>
    refine .inl ⟨rfl, ?_⟩
    simpa [writeRegister, hs] using h
  | ctrl =>
    refine .inr ⟨rfl, ?_⟩
    cases hsrst : v.getLsbD 1 with
    | true => rfl
    | false =>
      rw [writeRegister, writeCtrl, hsrst, if_neg Bool.false_ne_true] at h
      exact absurd h (ne_false_of_eq_true hs)
  | cmd | width | height | payloadLen => exact absurd h (ne_false_of_eq_true (guarded_haz hs rfl))
  | id | resultLen | bitcount | capacity | reserved => exact absurd h (ne_false_of_eq_true hs)

/-- STATUS and CTRL stand at one offset each of the register window (10_state.md section 2). -/
theorem registerAt_eq_status : ∀ a, a < 0x40 → registerAt a = .status → a = 0x0C := by decide

theorem registerAt_eq_ctrl : ∀ a, a < 0x40 → registerAt a = .ctrl → a = 0x04 := by decide

/-- A host write that clears HAZ (R352). -/
theorem hostWrite_clears_haz {s : State} {addr : Word} {size : AccessSize} {v : Word} (hs : s.status.haz = true)
    (h : (hostWrite s addr size v).status.haz = false) :
    size = .word ∧ ((addr = 0x0C#32 ∧ v.toNat / 8 % 2 = 1) ∨ (addr = 0x04#32 ∧ v.toNat / 2 % 2 = 1)) := by
  unfold hostWrite at h
  split at h
  next => exact absurd h (ne_false_of_eq_true hs)
  next r htarget =>
    obtain ⟨hsize, -, hwindow, hr⟩ := accessTarget_register htarget
    refine ⟨hsize, (writeRegister_clears_haz hs h).imp ?_ ?_⟩
    · rintro ⟨rfl, hbit⟩
      rw [getLsbD_eq_decide_div] at hbit
      exact ⟨BitVec.eq_of_toNat_eq (registerAt_eq_status _ hwindow hr.symm), of_decide_eq_true hbit⟩
    · rintro ⟨rfl, hbit⟩
      rw [getLsbD_eq_decide_div] at hbit
      exact ⟨BitVec.eq_of_toNat_eq (registerAt_eq_ctrl _ hwindow hr.symm), of_decide_eq_true hbit⟩
  next => exact absurd h (ne_false_of_eq_true (writeMemory_haz hs _ _ _))

/-- A step that sets HAZ serves a write that was dropped. -/
theorem step_sets_haz {s t : State} (hs : s.status.haz = false) (hstep : step s = .next t)
    (ht : t.status.haz = true) :
    s.status.busy = true ∧ ∃ addr v rest, s.agenda = .host (.write addr .word v) :: rest ∧ t = s.dropped rest := by
  obtain ⟨addr, size, v, rest, hagenda, rfl⟩ | ⟨rest, -, hreset⟩ := step_changes_haz hstep (by simp [hs, ht])
  · obtain hbus | ⟨rfl, u, heffect, hwrite⟩ := hostWrite_cases { s with agenda := rest } addr size v
    · rw [hbus] at ht
      exact absurd (hs.symm.trans ht) Bool.false_ne_true
    · rw [hwrite] at ht ⊢
      obtain ⟨busy, rfl⟩ := heffect.eq_dropWrite_of_sets_haz hs ht
      exact ⟨busy, addr, v, rest, hagenda, rfl⟩
  · exact absurd (hreset.symm.trans ht) Bool.false_ne_true

/-- Settles O28: a step that changes HAZ serves a host write or is a power-on, and its address and data say which way. -/
theorem hazardIsSticky : Obligations.HazardIsSticky := by
  refine ⟨fun s t hs hstep ht => ?_, fun s rest v idle hagenda => ?_, fun s _ => ?_, fun _ _ => step_sets_haz⟩
  · obtain ⟨addr, size, v, rest, hagenda, rfl⟩ | ⟨rest, hagenda, -⟩ := step_changes_haz hstep (by simp [hs, ht])
    · obtain ⟨rfl, ⟨rfl, hbit⟩ | ⟨rfl, hbit⟩⟩ := hostWrite_clears_haz (s := { s with agenda := rest }) hs ht
      · exact .inl ⟨v, rest, hagenda, hbit⟩
      · exact .inr (.inl ⟨v, rest, hagenda, hbit⟩)
    · exact .inr (.inr ⟨rest, hagenda⟩)
  · obtain ⟨t, hstep, rfl, -⟩ := commandWriteIssues s rest v idle hagenda
    exact ⟨_, hstep, rfl⟩
  · obtain ⟨t, hcomplete⟩ := exists_complete s
    exact ⟨t, hcomplete, complete_haz hcomplete⟩

end Sys2Proof.Machine
end
